-- ==== Sys2Proof/Word.lean ====
section
/-! DEFINITION. The two word sizes of the machine (00_scope.md R4, 10_state.md R11, R20). -/

namespace Sys2Proof

/-- An 8-bit value: a register, a memory cell, an immediate, a port number. -/
abbrev Byte := BitVec 8

/-- A 16-bit value: a register pair, SP, the program counter, an address. -/
abbrev Word := BitVec 16

end Sys2Proof
end

