-- ==== Sys2Proof/Syntax.lean ====
section
/-! DEFINITION. The instructions: one constructor per mnemonic of spec/opcode_table.json, the operand
types carrying the rows of each mnemonic (30_encoding.md R60 to R82). -/

namespace Sys2Proof

/-- The seven 8-bit registers (10_state.md R11). -/
inductive Reg where
  | b | c | d | e | h | l | a
deriving DecidableEq, Repr

/-- A 3-bit register field: a register, or M, the memory byte at HL (10_state.md R15). -/
inductive Operand where
  | reg (r : Reg)
  | m
deriving DecidableEq, Repr

/-- The pairs of LXI, INX, DCX and DAD (10_state.md R14). -/
inductive Pair where
  | bc | de | hl | sp
deriving DecidableEq, Repr

/-- The pairs of POP and PUSH (10_state.md R14). -/
inductive StackPair where
  | bc | de | hl | psw
deriving DecidableEq, Repr

/-- The eight conditions of jumps, calls and returns, by their suffix (30_encoding.md R65). -/
inductive Cond where
  | nz | z | nc | c | po | pe | p | m
deriving DecidableEq, Repr

/-- An instruction. The destination operand stands first, as the spec writes it (30_encoding.md R80). -/
inductive Instr where
  -- 40_alu_accumulator.md
  | add (src : Operand)
  | adc (src : Operand)
  | sub (src : Operand)
  | sbb (src : Operand)
  | ana (src : Operand)
  | xra (src : Operand)
  | ora (src : Operand)
  | cmp (src : Operand)
  | adi (imm : Byte)
  | aci (imm : Byte)
  | sui (imm : Byte)
  | sbi (imm : Byte)
  | ani (imm : Byte)
  | xri (imm : Byte)
  | ori (imm : Byte)
  | cpi (imm : Byte)
  -- 41_alu_inc_rotate_pair.md
  | inr (dst : Operand)
  | dcr (dst : Operand)
  | rlc
  | rrc
  | ral
  | rar
  | cma
  | stc
  | cmc
  | dad (rp : Pair)
  | inx (rp : Pair)
  | dcx (rp : Pair)
  -- 42_jump.md
  | jmp (target : Word)
  | jnz (target : Word)
  | jz (target : Word)
  | jnc (target : Word)
  | jc (target : Word)
  | jpo (target : Word)
  | jpe (target : Word)
  | jp (target : Word)
  | jm (target : Word)
  -- 43_memory_register.md
  | mov (dst src : Operand)
  | mvi (dst : Operand) (imm : Byte)
  | lxi (rp : Pair) (imm : Word)
  | lda (addr : Word)
  | sta (addr : Word)
  -- 44_stack.md
  | pop (rp : StackPair)
  | push (rp : StackPair)
  | call (target : Word)
  | cnz (target : Word)
  | cz (target : Word)
  | cnc (target : Word)
  | cc (target : Word)
  | cpo (target : Word)
  | cpe (target : Word)
  | cp (target : Word)
  | cm (target : Word)
  | ret
  | rnz
  | rz
  | rnc
  | rc
  | rpo
  | rpe
  | rp
  | rm
  -- 45_other.md
  | hlt
  | inPort (port : Byte)
  | outPort (port : Byte)
  | nop
deriving DecidableEq, Repr

end Sys2Proof
end

