-- ==== Sys2Proof/WellFormed.lean ====
section
/-! DEFINITION. Which terms of `Instr` are instructions of the machine. -/

namespace Sys2Proof

/-- Every term is an instruction but MOV M,M, "M as both operands of MOV does not exist: that byte,
0x76, is HLT" (10_state.md R15, 30_encoding.md R70). -/
def Instr.wellFormed : Instr → Bool
  | .mov .m .m => false
  | .mov (.reg _) _ | .mov .m (.reg _)
  | .add _ | .adc _ | .sub _ | .sbb _ | .ana _ | .xra _ | .ora _ | .cmp _
  | .adi _ | .aci _ | .sui _ | .sbi _ | .ani _ | .xri _ | .ori _ | .cpi _
  | .inr _ | .dcr _ | .rlc | .rrc | .ral | .rar | .cma | .stc | .cmc | .dad _ | .inx _ | .dcx _
  | .jmp _ | .jnz _ | .jz _ | .jnc _ | .jc _ | .jpo _ | .jpe _ | .jp _ | .jm _
  | .mvi _ _ | .lxi _ _ | .lda _ | .sta _
  | .pop _ | .push _
  | .call _ | .cnz _ | .cz _ | .cnc _ | .cc _ | .cpo _ | .cpe _ | .cp _ | .cm _
  | .ret | .rnz | .rz | .rnc | .rc | .rpo | .rpe | .rp | .rm
  | .hlt | .inPort _ | .outPort _ | .nop => true

end Sys2Proof
end

