-- ==== Sys2Proof/Decode.lean ====
section
/-! DEFINITION. The decoder and the encoder, both written from 30_encoding.md. -/

namespace Sys2Proof

/-! ### Fields of the opcode byte (30_encoding.md R62 to R65) -/

/-- The register code of R63; code 6 is M. -/
def operandOfCode : BitVec 3 → Operand
  | 0b000#3 => .reg .b
  | 0b001#3 => .reg .c
  | 0b010#3 => .reg .d
  | 0b011#3 => .reg .e
  | 0b100#3 => .reg .h
  | 0b101#3 => .reg .l
  | 0b110#3 => .m
  | _ => .reg .a

/-- The pair code of R64 in LXI, INX, DCX and DAD. -/
def pairOfCode : BitVec 2 → Pair
  | 0b00#2 => .bc
  | 0b01#2 => .de
  | 0b10#2 => .hl
  | _ => .sp

/-- The pair code of R64 in POP and PUSH. -/
def stackPairOfCode : BitVec 2 → StackPair
  | 0b00#2 => .bc
  | 0b01#2 => .de
  | 0b10#2 => .hl
  | _ => .psw

/-- The condition code of R65. -/
def condOfCode : BitVec 3 → Cond
  | 0b000#3 => .nz
  | 0b001#3 => .z
  | 0b010#3 => .nc
  | 0b011#3 => .c
  | 0b100#3 => .po
  | 0b101#3 => .pe
  | 0b110#3 => .p
  | _ => .m

/-- The conditional jump of a condition (R65, column "jump"). -/
def condJump (target : Word) : Cond → Instr
  | .nz => .jnz target
  | .z => .jz target
  | .nc => .jnc target
  | .c => .jc target
  | .po => .jpo target
  | .pe => .jpe target
  | .p => .jp target
  | .m => .jm target

/-- The conditional call of a condition (R65, column "call"). -/
def condCall (target : Word) : Cond → Instr
  | .nz => .cnz target
  | .z => .cz target
  | .nc => .cnc target
  | .c => .cc target
  | .po => .cpo target
  | .pe => .cpe target
  | .p => .cp target
  | .m => .cm target

/-- The conditional return of a condition (R65, column "return"). -/
def condReturn : Cond → Instr
  | .nz => .rnz
  | .z => .rz
  | .nc => .rnc
  | .c => .rc
  | .po => .rpo
  | .pe => .rpe
  | .p => .rp
  | .m => .rm

/-- The register form of an ALU operation code (R73). -/
def aluRegister (src : Operand) : BitVec 3 → Instr
  | 0b000#3 => .add src
  | 0b001#3 => .adc src
  | 0b010#3 => .sub src
  | 0b011#3 => .sbb src
  | 0b100#3 => .ana src
  | 0b101#3 => .xra src
  | 0b110#3 => .ora src
  | _ => .cmp src

/-- The immediate form of an ALU operation code (R73). -/
def aluImmediate (op : BitVec 3) (imm : Byte) : Instr :=
  match op with
  | 0b000#3 => .adi imm
  | 0b001#3 => .aci imm
  | 0b010#3 => .sui imm
  | 0b011#3 => .sbi imm
  | 0b100#3 => .ani imm
  | 0b101#3 => .xri imm
  | 0b110#3 => .ori imm
  | _ => .cpi imm

/-! ### The three formats (30_encoding.md R61) -/

/-- What an assigned opcode byte begins: a whole instruction (F1), one that takes `imm8` (F2), or one
that takes `imm16` (F3). -/
inductive OpFormat where
  | f1 (i : Instr)
  | f2 (k : Byte → Instr)
  | f3 (k : Word → Instr)

/-- The length in bytes of an instruction of a format (R61). -/
def OpFormat.length : OpFormat → Nat
  | .f1 _ => 1
  | .f2 _ => 2
  | .f3 _ => 3

/-- `imm16` from its two bytes, the low one first in memory (R66). -/
def imm16 (lo hi : Byte) : Word := hi ++ lo

/-- Group 0b00, by bits 5:3 and 2:0 (R69, R74). -/
def formatGroup0 (mid low : BitVec 3) : Option OpFormat :=
  let pp := mid.extractLsb' 1 2
  match low with
  | 0b000#3 => if mid = 0b000#3 then some (.f1 .nop) else none
  | 0b001#3 => if mid.getLsbD 0 then some (.f1 (.dad (pairOfCode pp))) else some (.f3 (.lxi (pairOfCode pp)))
  | 0b010#3 =>
    if mid = 0b110#3 then some (.f3 .sta)
    else if mid = 0b111#3 then some (.f3 .lda)
    else none
  | 0b011#3 => some (.f1 (if mid.getLsbD 0 then .dcx (pairOfCode pp) else .inx (pairOfCode pp)))
  | 0b100#3 => some (.f1 (.inr (operandOfCode mid)))
  | 0b101#3 => some (.f1 (.dcr (operandOfCode mid)))
  | 0b110#3 => some (.f2 (.mvi (operandOfCode mid)))
  | _ =>
    match mid with
    | 0b000#3 => some (.f1 .rlc)
    | 0b001#3 => some (.f1 .rrc)
    | 0b010#3 => some (.f1 .ral)
    | 0b011#3 => some (.f1 .rar)
    | 0b100#3 => none
    | 0b101#3 => some (.f1 .cma)
    | 0b110#3 => some (.f1 .stc)
    | _ => some (.f1 .cmc)

/-- Group 0b11, by bits 5:3 and 2:0 (R72). -/
def formatGroup3 (mid low : BitVec 3) : Option OpFormat :=
  let pp := mid.extractLsb' 1 2
  match low with
  | 0b000#3 => some (.f1 (condReturn (condOfCode mid)))
  | 0b001#3 =>
    if mid.getLsbD 0 then (if mid = 0b001#3 then some (.f1 .ret) else none)
    else some (.f1 (.pop (stackPairOfCode pp)))
  | 0b010#3 => some (.f3 (fun target => condJump target (condOfCode mid)))
  | 0b011#3 =>
    match mid with
    | 0b000#3 => some (.f3 .jmp)
    | 0b010#3 => some (.f2 .outPort)
    | 0b011#3 => some (.f2 .inPort)
    | _ => none
  | 0b100#3 => some (.f3 (fun target => condCall target (condOfCode mid)))
  | 0b101#3 =>
    if mid.getLsbD 0 then (if mid = 0b001#3 then some (.f3 .call) else none)
    else some (.f1 (.push (stackPairOfCode pp)))
  | 0b110#3 => some (.f2 (aluImmediate mid))
  | _ => none

/-- What an opcode byte begins; `none` for the 33 unassigned bytes (R62, R69 to R72, R78). -/
def opcodeFormat (b : Byte) : Option OpFormat :=
  let mid := b.extractLsb' 3 3
  let low := b.extractLsb' 0 3
  match b.extractLsb' 6 2 with
  | 0b00#2 => formatGroup0 mid low
  | 0b01#2 =>
    if mid = 0b110#3 ∧ low = 0b110#3 then some (.f1 .hlt)
    else some (.f1 (.mov (operandOfCode mid) (operandOfCode low)))
  | 0b10#2 => some (.f1 (aluRegister (operandOfCode low) mid))
  | _ => formatGroup3 mid low

/-! ### The decoder -/

/-- Why bytes are no instruction. -/
inductive DecodeError where
  /-- The first byte is one of the 33 unassigned opcode bytes (R78). -/
  | unassignedOpcode (b : Byte)
  /-- The bytes end before the instruction does. -/
  | truncated
deriving DecidableEq, Repr

/-- The instruction at the head of a list of bytes, and the bytes after it. -/
def decode : List Byte → Except DecodeError (Instr × List Byte)
  | [] => .error .truncated
  | b :: bs =>
    match opcodeFormat b with
    | none => .error (.unassignedOpcode b)
    | some (.f1 i) => .ok (i, bs)
    | some (.f2 k) =>
      match bs with
      | v :: rest => .ok (k v, rest)
      | _ => .error .truncated
    | some (.f3 k) =>
      match bs with
      | lo :: hi :: rest => .ok (k (imm16 lo hi), rest)
      | _ => .error .truncated

/-- The three bytes of a table word, bit 0 the least significant bit of the first byte; every bit from
`nbits` on is 0. -/
def tableBytes (nbits w : Nat) : List Byte :=
  let v := w % 2 ^ nbits
  [BitVec.ofNat 8 v, BitVec.ofNat 8 (v / 2 ^ 8), BitVec.ofNat 8 (v / 2 ^ 16)]

/-- The instruction the decoder reads from a row's bits. -/
def decodeTableWord (nbits w : Nat) : Option Instr :=
  match decode (tableBytes nbits w) with
  | .ok (i, _) => some i
  | .error _ => none

/-! ### The encoder -/

/-- R63, from the register to its code. -/
def operandCode : Operand → BitVec 3
  | .reg .b => 0b000#3
  | .reg .c => 0b001#3
  | .reg .d => 0b010#3
  | .reg .e => 0b011#3
  | .reg .h => 0b100#3
  | .reg .l => 0b101#3
  | .m => 0b110#3
  | .reg .a => 0b111#3

/-- R64, LXI, INX, DCX and DAD. -/
def pairCode : Pair → BitVec 2
  | .bc => 0b00#2
  | .de => 0b01#2
  | .hl => 0b10#2
  | .sp => 0b11#2

/-- R64, POP and PUSH. -/
def stackPairCode : StackPair → BitVec 2
  | .bc => 0b00#2
  | .de => 0b01#2
  | .hl => 0b10#2
  | .psw => 0b11#2

/-- An opcode byte from its three fields (R62). -/
def opcode (group : BitVec 2) (mid low : BitVec 3) : Byte := group ++ mid ++ low

/-- An opcode byte from a pair code and the four low bits (R62). -/
def pairOpcode (group : BitVec 2) (pp : BitVec 2) (low : BitVec 4) : Byte := group ++ pp ++ low

/-- A 3-byte instruction: the opcode, the operand's low byte, its high byte (R61, F3). -/
def threeBytes (op : Byte) (w : Word) : List Byte := [op, w.extractLsb' 0 8, w.extractLsb' 8 8]

/-- The bytes of an instruction, from the hex lists and templates of R69 to R74. -/
def encode : Instr → List Byte
  | .add src => [opcode 0b10#2 0b000#3 (operandCode src)]
  | .adc src => [opcode 0b10#2 0b001#3 (operandCode src)]
  | .sub src => [opcode 0b10#2 0b010#3 (operandCode src)]
  | .sbb src => [opcode 0b10#2 0b011#3 (operandCode src)]
  | .ana src => [opcode 0b10#2 0b100#3 (operandCode src)]
  | .xra src => [opcode 0b10#2 0b101#3 (operandCode src)]
  | .ora src => [opcode 0b10#2 0b110#3 (operandCode src)]
  | .cmp src => [opcode 0b10#2 0b111#3 (operandCode src)]
  | .adi imm => [0xC6#8, imm]
  | .aci imm => [0xCE#8, imm]
  | .sui imm => [0xD6#8, imm]
  | .sbi imm => [0xDE#8, imm]
  | .ani imm => [0xE6#8, imm]
  | .xri imm => [0xEE#8, imm]
  | .ori imm => [0xF6#8, imm]
  | .cpi imm => [0xFE#8, imm]
  | .inr dst => [opcode 0b00#2 (operandCode dst) 0b100#3]
  | .dcr dst => [opcode 0b00#2 (operandCode dst) 0b101#3]
  | .rlc => [0x07#8]
  | .rrc => [0x0F#8]
  | .ral => [0x17#8]
  | .rar => [0x1F#8]
  | .cma => [0x2F#8]
  | .stc => [0x37#8]
  | .cmc => [0x3F#8]
  | .dad rp => [pairOpcode 0b00#2 (pairCode rp) 0b1001#4]
  | .inx rp => [pairOpcode 0b00#2 (pairCode rp) 0b0011#4]
  | .dcx rp => [pairOpcode 0b00#2 (pairCode rp) 0b1011#4]
  | .jmp target => threeBytes 0xC3#8 target
  | .jnz target => threeBytes 0xC2#8 target
  | .jz target => threeBytes 0xCA#8 target
  | .jnc target => threeBytes 0xD2#8 target
  | .jc target => threeBytes 0xDA#8 target
  | .jpo target => threeBytes 0xE2#8 target
  | .jpe target => threeBytes 0xEA#8 target
  | .jp target => threeBytes 0xF2#8 target
  | .jm target => threeBytes 0xFA#8 target
  | .mov dst src => [opcode 0b01#2 (operandCode dst) (operandCode src)]
  | .mvi dst imm => [opcode 0b00#2 (operandCode dst) 0b110#3, imm]
  | .lxi rp imm => threeBytes (pairOpcode 0b00#2 (pairCode rp) 0b0001#4) imm
  | .lda addr => threeBytes 0x3A#8 addr
  | .sta addr => threeBytes 0x32#8 addr
  | .pop rp => [pairOpcode 0b11#2 (stackPairCode rp) 0b0001#4]
  | .push rp => [pairOpcode 0b11#2 (stackPairCode rp) 0b0101#4]
  | .call target => threeBytes 0xCD#8 target
  | .cnz target => threeBytes 0xC4#8 target
  | .cz target => threeBytes 0xCC#8 target
  | .cnc target => threeBytes 0xD4#8 target
  | .cc target => threeBytes 0xDC#8 target
  | .cpo target => threeBytes 0xE4#8 target
  | .cpe target => threeBytes 0xEC#8 target
  | .cp target => threeBytes 0xF4#8 target
  | .cm target => threeBytes 0xFC#8 target
  | .ret => [0xC9#8]
  | .rnz => [0xC0#8]
  | .rz => [0xC8#8]
  | .rnc => [0xD0#8]
  | .rc => [0xD8#8]
  | .rpo => [0xE0#8]
  | .rpe => [0xE8#8]
  | .rp => [0xF0#8]
  | .rm => [0xF8#8]
  | .hlt => [0x76#8]
  | .inPort port => [0xDB#8, port]
  | .outPort port => [0xD3#8, port]
  | .nop => [0x00#8]

end Sys2Proof
end

