-- ==== Sys2Proof/Config.lean ====
section
/-! DEFINITION. The parameters of 00_scope.md R4 as plain data, and the free values (opaque constants,
no body): nothing in Lean can evaluate one, so a theorem about one holds whatever its value. -/

namespace Sys2Proof

/-- What stands at a memory address (20_memory.md R49). -/
inductive CellKind where
  | ram
  | rom
  | absent
deriving DecidableEq, Repr

/-- One stretch of the address map: `size` cells from `base` on, all of one kind (log 25). -/
structure Region where
  base : Nat
  size : Nat
  kind : CellKind
deriving DecidableEq, Repr

/-- The parameter LOGIC_CARRY (92_eei_decisions.md D6): what the six logic operations write to CY. -/
inductive LogicCarry where
  /-- CY becomes 0 (the spec's default). -/
  | clear
  /-- CY becomes an arbitrary bit. -/
  | draw
deriving DecidableEq, Repr

/-- The parameter STACK_OPCODE_SENSE (44_stack.md R211). -/
inductive StackSense where
  /-- POP stores and PUSH loads, as the source has it (the spec's default). -/
  | source
  /-- The two opcode sets exchange their meanings. -/
  | intel8085
deriving DecidableEq, Repr

/-- The parameter UNSET_STATE for memory cells (10_state.md R27). -/
inductive UnsetPolicy where
  /-- Reading an unset cell is the fault UnsetRead (the spec's default). -/
  | faultOnRead
  /-- An unset cell holds an arbitrary fixed byte. -/
  | draw
deriving DecidableEq, Repr

/-- The spec's open parameters, fixed by the environment before a run; no instruction changes them (log 4). -/
structure Config where
  /-- MEM_MAP: the first region that holds an address decides; an address in no region is RAM. -/
  memMap : List Region
  logicCarry : LogicCarry
  stackSense : StackSense
  unset : UnsetPolicy
deriving DecidableEq, Repr

/-- Every parameter at the spec's default (92_eei_decisions.md, "Open parameters in one list"). -/
def Config.standard : Config :=
  { memMap := [], logicCarry := .clear, stackSense := .source, unset := .faultOnRead }

/-- RESET_PC (00_scope.md R4, 92_eei_decisions.md D23). -/
def Config.resetPc : Word := 0x0000#16

/-- One event of the port trace (20_memory.md R52): the port number and the byte. -/
inductive PortEvent where
  /-- IN read the byte from the input port. -/
  | input (port value : Byte)
  /-- OUT presented the byte on the output port. -/
  | output (port value : Byte)
deriving DecidableEq, Repr

/-- FREE VALUE (log 6): the byte the environment IO_ENV presents on an input port, given the index of
the step, the port events so far and the port number. -/
opaque Config.portIn : Nat → List PortEvent → Byte → Byte

/-- FREE VALUE (log 9): the carry a logic operation leaves under LOGIC_CARRY = draw, by the step's index. -/
opaque Config.drawnCarry : Nat → Bool

/-- FREE VALUE (log 3): the byte an unset memory cell holds under UNSET_STATE = draw, by its address; the same
at every read (92_eei_decisions.md D31, 20_memory.md R47). -/
opaque Config.unsetByte : Word → Byte

end Sys2Proof
end

