-- ==== Sys2Proof/Machine/State.lean ====
section
/-! DEFINITION. The state of the machine as plain data, why a step can stop, and the state after reset. -/

namespace Sys2Proof.Machine

/-- Why the machine stops with a fault (60_exceptions.md R261). Each constructor carries the information
R261 lists; a fault is terminal and the faulting instruction writes nothing (R262). -/
inductive Fault where
  /-- Raised by the fetch of `step` when the opcode byte is one of the 33 unassigned bytes. SAFE: the model
  stops where the hardware does something no source tells (log 17). -/
  | illegalOpcode (pc : Word) (byte : Byte)
  /-- Raised by a fetch or a data read of a cell MEM_MAP marks absent, and by a write to a cell it marks ROM or
  absent. SAFE: the spec's own stop (log 18). -/
  | unmappedAccess (addr : Word)
  /-- Raised by a read of a memory cell that has no value, under UNSET_STATE = fault_on_read. SAFE: the model
  stops where the hardware reads some byte (log 3). -/
  | unsetRead (addr : Word)
deriving DecidableEq, Repr

/-- Why a term of `Instr` is given no meaning. -/
inductive Refusal where
  /-- Raised by an arm of `exec` whose instruction has no meaning yet; no arm does. SAFE. -/
  | notModelled (mnemonic : String)
  /-- Raised by `execMov` for the ill-formed term MOV M,M, which is no instruction of the machine and which no
  byte decodes to (30_encoding.md R70, log 22). SAFE. -/
  | movMemoryToMemory
deriving DecidableEq, Repr

/-- The four flags (10_state.md R16). -/
structure Flags where
  /-- Sign. -/
  s : Bool
  /-- Zero. -/
  z : Bool
  /-- Parity: 1 for even. -/
  p : Bool
  /-- Carry. -/
  cy : Bool
deriving DecidableEq, Repr

/-- Memory as the cells that hold a value, in one canonical form (`Memory.wf`, Machine/Ops.lean); a cell not
listed holds none (10_state.md R27, log 3). -/
abbrev Memory := List Host.Cell

/-- The architectural state (10_state.md R10), the port trace (20_memory.md R52), the spec's parameters (log 4)
and the index of the free values (log 5). -/
structure State where
  a : Byte
  b : Byte
  c : Byte
  d : Byte
  e : Byte
  h : Byte
  l : Byte
  flags : Flags
  sp : Word
  pc : Word
  mem : Memory
  /-- The processor has executed HLT (R25). -/
  halted : Bool
  /-- The port events so far, the newest last. -/
  trace : List PortEvent
  /-- The spec's parameters; no instruction changes them. -/
  cfg : Config
  /-- The MODEL's own: how many instructions have completed. The free values are indexed by it; no rule reads it. -/
  tick : Nat
deriving DecidableEq, Repr

/-- The machine right after reset (10_state.md R26, 70_reset_and_hazards.md R290). The spec states pc and
`halted`; the zeros of registers, flags and SP are the model's (DESIGN CHOICE, log 1); memory lists nothing. -/
def State.reset : State :=
  { a := 0x00#8, b := 0x00#8, c := 0x00#8, d := 0x00#8, e := 0x00#8, h := 0x00#8, l := 0x00#8,
    flags := { s := false, z := false, p := false, cy := false },
    sp := 0x0000#16, pc := Config.resetPc, mem := [], halted := false, trace := [],
    cfg := Config.standard, tick := 0 }

/-- What one step, or the meaning of one instruction, answers. -/
abbrev Result := Host.Outcome State Fault Refusal

end Sys2Proof.Machine
end

