-- ==== Sys2Proof/Machine/Ops.lean ====
section
/-! DEFINITION. The shared operations over memory, registers, the stack, the ports and the program counter.

Taking an exception and returning from one: the hardware has neither (60_exceptions.md R260, R264, R265, R267),
no vector, no saved pc, no status saved and no return-from-trap instruction, so there is no such operation. The
model's faults are `raise` (R262); reset by the environment is `State.environmentReset` (R290). -/

namespace Sys2Proof.Machine

/-! ### Faults -/

/-- `raise <Fault>(info)`: the machine stops; the answer carries no state, so nothing has been written (R262). -/
def raise (f : Fault) : Result := .fault f

/-- Go on with what an access gave, or stop with its fault. The first failing access decides (R263). -/
def attempt {α : Type} (r : Except Fault α) (k : α → Result) : Result :=
  match r with
  | .ok v => k v
  | .error f => raise f

/-! ### Memory as data -/

/-- What an address no cell is listed for reads as: no value (10_state.md R27, log 3). -/
def Memory.unlisted : Option Byte := none

/-- The byte listed at an address. -/
def Memory.lookup : Memory → Nat → Option Byte
  | [], _ => Memory.unlisted
  | (k, v) :: rest, a => if k = a then some v else Memory.lookup rest a

/-- Set the byte at an address, keeping the addresses rising. -/
def Memory.insert : Memory → Nat → Byte → Memory
  | [], a, v => [(a, v)]
  | (k, w) :: rest, a, v =>
    if a < k then (a, v) :: (k, w) :: rest
    else if a = k then (a, v) :: rest
    else (k, w) :: Memory.insert rest a v

/-- The canonical form: addresses strictly rising, each in the 2^16 cells of 10_state.md R23. (A listed cell holds
a byte and an unlisted one no value, so no entry equals what an unlisted address reads as.) -/
abbrev Memory.wf (m : Memory) : Prop :=
  (m.map Prod.fst).Pairwise (· < ·) ∧ ∀ c ∈ m, c.1 < 2 ^ 16

/-- What MEM_MAP says of an address: the first region that holds it decides, RAM where none does
(20_memory.md R49, logs 4 and 25). -/
def kindAt : List Region → Nat → CellKind
  | [], _ => .ram
  | r :: rest, a => if r.base ≤ a ∧ a < r.base + r.size then r.kind else kindAt rest a

/-- The kind of a cell under the state's MEM_MAP. -/
def State.cellKind (s : State) (addr : Word) : CellKind := kindAt s.cfg.memMap addr.toNat

/-- What a present cell that nobody loaded or wrote reads as: the fault UnsetRead, or a free value that is fixed for
the cell (10_state.md R27, 92_eei_decisions.md D31, 20_memory.md R47, log 3). -/
def readUnset (s : State) (addr : Word) : Except Fault Byte :=
  match s.cfg.unset with
  | .faultOnRead => .error (.unsetRead addr)
  | .draw => .ok (Config.unsetByte addr)

/-- `MemRead(addr, 1)` (20_memory.md R40). -/
def memRead (s : State) (addr : Word) : Except Fault Byte :=
  match s.cellKind addr with
  | .absent => .error (.unmappedAccess addr)
  | .ram | .rom =>
    match Memory.lookup s.mem addr.toNat with
    | some v => .ok v
    | none => readUnset s addr

/-- `MemWrite(addr, 1, v)` (20_memory.md R41). -/
def memWrite (s : State) (addr : Word) (v : Byte) : Except Fault State :=
  match s.cellKind addr with
  | .ram => .ok { s with mem := Memory.insert s.mem addr.toNat v }
  | .rom | .absent => .error (.unmappedAccess addr)

/-! ### Registers and pairs -/

/-- `x[c]` by register (10_state.md R11). -/
def State.reg (s : State) : Reg → Byte
  | .b => s.b
  | .c => s.c
  | .d => s.d
  | .e => s.e
  | .h => s.h
  | .l => s.l
  | .a => s.a

/-- `x[c] <- v`. -/
def State.setReg (s : State) (r : Reg) (v : Byte) : State :=
  match r with
  | .b => { s with b := v }
  | .c => { s with c := v }
  | .d => { s with d := v }
  | .e => { s with e := v }
  | .h => { s with h := v }
  | .l => { s with l := v }
  | .a => { s with a := v }

/-- `hi8(w)` (00_scope.md R5). -/
def hi8 (w : Word) : Byte := w.extractLsb' 8 8

/-- `lo8(w)` (00_scope.md R5). -/
def lo8 (w : Word) : Byte := w.extractLsb' 0 8

/-- BC, the first-named register the high byte (10_state.md R13). -/
def State.bc (s : State) : Word := s.b ++ s.c

/-- DE (R13). -/
def State.de (s : State) : Word := s.d ++ s.e

/-- HL, the memory pointer (R13, R15). -/
def State.hl (s : State) : Word := s.h ++ s.l

/-- `rp[p]` (R14). -/
def State.pair (s : State) : Pair → Word
  | .bc => s.bc
  | .de => s.de
  | .hl => s.hl
  | .sp => s.sp

/-- `rp[p] <- w`, both halves, or SP (00_scope.md R7). -/
def State.setPair (s : State) (p : Pair) (w : Word) : State :=
  match p with
  | .bc => { s with b := hi8 w, c := lo8 w }
  | .de => { s with d := hi8 w, e := lo8 w }
  | .hl => { s with h := hi8 w, l := lo8 w }
  | .sp => { s with sp := w }

/-! ### The program counter -/

/-- `pc <- pc + len`, modulo 2^16 (10_state.md R20). -/
def State.advance (s : State) (len : Word) : State := { s with pc := s.pc + len }

/-- `pc <- target`. -/
def State.goto (s : State) (target : Word) : State := { s with pc := target }

/-! ### The stack (44_stack.md R210) -/

/-- `StackStore(w)`: the high byte at SP-1 first, then the low byte at SP-2, then SP goes down by 2. -/
def stackStore (s : State) (w : Word) : Except Fault State :=
  match memWrite s (s.sp - 1#16) (hi8 w) with
  | .error f => .error f
  | .ok s1 =>
    match memWrite s1 (s.sp - 2#16) (lo8 w) with
    | .error f => .error f
    | .ok s2 => .ok { s2 with sp := s.sp - 2#16 }

/-- `StackLoad()`: the low byte at SP first, then the high byte at SP+1, then SP goes up by 2. -/
def stackLoad (s : State) : Except Fault (Word × State) :=
  match memRead s s.sp with
  | .error f => .error f
  | .ok lo =>
    match memRead s (s.sp + 1#16) with
    | .error f => .error f
    | .ok hi => .ok (hi ++ lo, { s with sp := s.sp + 2#16 })

/-! ### Ports (20_memory.md R52) -/

/-- `PortIn(p)`: the byte IO_ENV presents, a free value (log 6). -/
def portIn (s : State) (port : Byte) : Byte := Config.portIn s.tick s.trace port

/-- An event joins the trace. -/
def State.record (s : State) (e : PortEvent) : State := { s with trace := s.trace ++ [e] }

/-! ### Fetch (20_memory.md R51) -/

/-- The instruction at `pc`: the opcode byte, then the operand bytes its format has, ascending; an unassigned
opcode faults before any operand is fetched. -/
def fetch (s : State) : Except Fault Instr :=
  match memRead s s.pc with
  | .error f => .error f
  | .ok op =>
    match opcodeFormat op with
    | none => .error (.illegalOpcode s.pc op)
    | some (.f1 i) => .ok i
    | some (.f2 k) =>
      match memRead s (s.pc + 1#16) with
      | .error f => .error f
      | .ok v => .ok (k v)
    | some (.f3 k) =>
      match memRead s (s.pc + 1#16) with
      | .error f => .error f
      | .ok lo =>
        match memRead s (s.pc + 2#16) with
        | .error f => .error f
        | .ok hi => .ok (k (imm16 lo hi))

/-- The index of the free values moves on with each completed instruction (log 5). -/
def State.nextTick (s : State) : State := { s with tick := s.tick + 1 }

/-! ### What the environment does between steps -/

/-- Reset by the environment (70_reset_and_hazards.md R290): pc and `halted` as after reset, registers, flags and
SP back at the values the model names (log 1), memory as it is; the trace, the parameters and the index are no
state of the machine and stay (log 20). -/
def State.environmentReset (s : State) : State :=
  { State.reset with mem := s.mem, trace := s.trace, cfg := s.cfg, tick := s.tick }

/-- The environment loads bytes into consecutive cells, whatever MEM_MAP says of them (70_reset_and_hazards.md
R291, log 21). -/
def State.load (s : State) (addr : Word) : List Byte → State
  | [] => s
  | v :: rest => State.load { s with mem := Memory.insert s.mem addr.toNat v } (addr + 1#16) rest

end Sys2Proof.Machine
end

