-- ==== Sys2Proof/Machine/Flags.lean ====
section
/-! DEFINITION. Every flag computation of the spec, the F byte, the PSW word and the conditions. -/

namespace Sys2Proof.Machine

/-- `popcount(v)`: the number of 1 bits (00_scope.md R5). -/
def popcount (v : Byte) : Nat := (List.range 8).countP (fun i => v.getLsbD i)

/-- `SZP(r)` (40_alu_accumulator.md R100). -/
def Flags.setSzp (f : Flags) (r : Byte) : Flags :=
  { f with s := r.getLsbD 7, z := r == 0x00#8, p := popcount r % 2 == 0 }

/-- `CY <- b`. -/
def Flags.setCarry (f : Flags) (b : Bool) : Flags := { f with cy := b }

/-- A 1-bit value widened to 9 bits. -/
def bit9 (b : Bool) : BitVec 9 := (BitVec.ofBool b).zeroExtend 9

/-- `AddC(a, v, c)`: the 8-bit result and the adder's carry out (R101). -/
def addC (a v : Byte) (c : Bool) : Byte × Bool :=
  let t : BitVec 9 := a.zeroExtend 9 + v.zeroExtend 9 + bit9 c
  (t.extractLsb' 0 8, t.getLsbD 8)

/-- `SubB(a, v, b)`: the 8-bit result and the borrow, the complement of the adder's carry out (R102). -/
def subB (a v : Byte) (b : Bool) : Byte × Bool :=
  let t : BitVec 9 := a.zeroExtend 9 + (~~~v).zeroExtend 9 + bit9 (!b)
  (t.extractLsb' 0 8, !t.getLsbD 8)

/-- The 16-bit sum of DAD and its carry out of bit 15 (41_alu_inc_rotate_pair.md R149). -/
def addPair (x y : Word) : Word × Bool :=
  let t : BitVec 17 := x.zeroExtend 17 + y.zeroExtend 17
  (t.extractLsb' 0 16, t.getLsbD 16)

/-- The CY a logic operation writes: 0, or a free value under LOGIC_CARRY = draw (R109, log 9). -/
def logicCarry (s : State) : Bool :=
  match s.cfg.logicCarry with
  | .clear => false
  | .draw => Config.drawnCarry s.tick

/-- F: `S ++ Z ++ 0b000 ++ P ++ 0b0 ++ CY` (10_state.md R17). -/
def Flags.toByte (f : Flags) : Byte :=
  BitVec.ofBool f.s ++ BitVec.ofBool f.z ++ 0b000#3 ++ BitVec.ofBool f.p ++ 0b0#1 ++ BitVec.ofBool f.cy

/-- Writing F: bits 7, 6, 2 and 0; the others are dropped (R17). -/
def Flags.ofByte (v : Byte) : Flags :=
  { s := v.getLsbD 7, z := v.getLsbD 6, p := v.getLsbD 2, cy := v.getLsbD 0 }

/-- `PSW = A ++ F` (R18). -/
def State.psw (s : State) : Word := s.a ++ s.flags.toByte

/-- `cond(ccc)`: the selected flag equals the value in the condition's low bit (42_jump.md R170). -/
def condHolds (f : Flags) : Cond → Bool
  | .nz => f.z == false
  | .z => f.z == true
  | .nc => f.cy == false
  | .c => f.cy == true
  | .po => f.p == false
  | .pe => f.p == true
  | .p => f.s == false
  | .m => f.s == true

end Sys2Proof.Machine
end

