-- ==== Sys2Proof/Machine/Operands.lean ====
section
/-! DEFINITION. The operand forms: register or M, and the pairs of the stack group. -/

namespace Sys2Proof.Machine

/-- A register field read: the register, or the memory byte at HL (40_alu_accumulator.md R104, 10_state.md R15). -/
def readOperand (s : State) : Operand → Except Fault Byte
  | .reg r => .ok (s.reg r)
  | .m => memRead s s.hl

/-- A register field written: the register, or the memory byte at HL (10_state.md R15). -/
def writeOperand (s : State) (o : Operand) (v : Byte) : Except Fault State :=
  match o with
  | .reg r => .ok (s.setReg r v)
  | .m => memWrite s s.hl v

/-- `sp2[p]` read (10_state.md R14, R18). -/
def State.stackPair (s : State) : StackPair → Word
  | .bc => s.bc
  | .de => s.de
  | .hl => s.hl
  | .psw => s.psw

/-- `sp2[p] <- w`; PSW writes A and the four flags (44_stack.md R213). -/
def State.setStackPair (s : State) (p : StackPair) (w : Word) : State :=
  match p with
  | .bc => s.setPair .bc w
  | .de => s.setPair .de w
  | .hl => s.setPair .hl w
  | .psw => { s with a := hi8 w, flags := Flags.ofByte (lo8 w) }

end Sys2Proof.Machine
end

