-- ==== Sys2Proof/Machine/Alu.lean ====
section
/-! DEFINITION. The accumulator operations, register, M and immediate forms (40_alu_accumulator.md). -/

namespace Sys2Proof.Machine

/-! ### Shared operations -/

/-- A result and its carry: into A and all four flags (R100, R101, R102). -/
def setAccumulator (s : State) (r : Byte × Bool) : State :=
  { s with a := r.1, flags := (s.flags.setSzp r.1).setCarry r.2 }

/-- A result and its carry: into the flags alone (CMP and CPI, R112, R120). -/
def setCompareFlags (s : State) (r : Byte × Bool) : State :=
  { s with flags := (s.flags.setSzp r.1).setCarry r.2 }

/-- A logic result: into A, with S, Z, P from it and CY as LOGIC_CARRY says (R109). -/
def setLogic (s : State) (r : Byte) : State := setAccumulator s (r, logicCarry s)

/-- A one-byte operation on the second operand of R104. -/
def withOperand (s : State) (src : Operand) (f : Byte → State) : Result :=
  attempt (readOperand s src) fun v => .next ((f v).advance 1#16)

/-! ### Register and M forms -/

/-- ADD (R105). -/
def execAdd (src : Operand) (s : State) : Result :=
  withOperand s src fun v => setAccumulator s (addC s.a v false)

/-- ADC (R106). -/
def execAdc (src : Operand) (s : State) : Result :=
  withOperand s src fun v => setAccumulator s (addC s.a v s.flags.cy)

/-- SUB (R107). -/
def execSub (src : Operand) (s : State) : Result :=
  withOperand s src fun v => setAccumulator s (subB s.a v false)

/-- SBB (R108). -/
def execSbb (src : Operand) (s : State) : Result :=
  withOperand s src fun v => setAccumulator s (subB s.a v s.flags.cy)

/-- ANA (R109). -/
def execAna (src : Operand) (s : State) : Result :=
  withOperand s src fun v => setLogic s (s.a &&& v)

/-- XRA (R110). -/
def execXra (src : Operand) (s : State) : Result :=
  withOperand s src fun v => setLogic s (s.a ^^^ v)

/-- ORA (R111). -/
def execOra (src : Operand) (s : State) : Result :=
  withOperand s src fun v => setLogic s (s.a ||| v)

/-- CMP (R112). -/
def execCmp (src : Operand) (s : State) : Result :=
  withOperand s src fun v => setCompareFlags s (subB s.a v false)

/-! ### Immediate forms -/

/-- ADI (R113). -/
def execAdi (imm : Byte) (s : State) : Result :=
  .next ((setAccumulator s (addC s.a imm false)).advance 2#16)

/-- ACI (R114). -/
def execAci (imm : Byte) (s : State) : Result :=
  .next ((setAccumulator s (addC s.a imm s.flags.cy)).advance 2#16)

/-- SUI (R115). -/
def execSui (imm : Byte) (s : State) : Result :=
  .next ((setAccumulator s (subB s.a imm false)).advance 2#16)

/-- SBI (R116). -/
def execSbi (imm : Byte) (s : State) : Result :=
  .next ((setAccumulator s (subB s.a imm s.flags.cy)).advance 2#16)

/-- ANI (R117). -/
def execAni (imm : Byte) (s : State) : Result :=
  .next ((setLogic s (s.a &&& imm)).advance 2#16)

/-- XRI (R118). -/
def execXri (imm : Byte) (s : State) : Result :=
  .next ((setLogic s (s.a ^^^ imm)).advance 2#16)

/-- ORI (R119). -/
def execOri (imm : Byte) (s : State) : Result :=
  .next ((setLogic s (s.a ||| imm)).advance 2#16)

/-- CPI (R120). -/
def execCpi (imm : Byte) (s : State) : Result :=
  .next ((setCompareFlags s (subB s.a imm false)).advance 2#16)

end Sys2Proof.Machine
end

