-- ==== Sys2Proof/Machine/IncRotatePair.lean ====
section
/-! DEFINITION. Increment, decrement, rotates, carry and pair arithmetic (41_alu_inc_rotate_pair.md). -/

namespace Sys2Proof.Machine

/-! ### Shared operations -/

/-- Read the operand, write the changed byte back, set S, Z and P from it; CY is kept (R140, R141). -/
def changeOperand (s : State) (dst : Operand) (f : Byte → Byte) : Result :=
  attempt (readOperand s dst) fun v =>
    attempt (writeOperand s dst (f v)) fun t =>
      .next ({ t with flags := t.flags.setSzp (f v) }.advance 1#16)

/-- A rotate: a new A and a new CY; S, Z and P are kept. -/
def rotateTo (s : State) (a : Byte) (cy : Bool) : Result :=
  .next ({ s with a := a, flags := s.flags.setCarry cy }.advance 1#16)

/-! ### The instructions -/

/-- INR (R140). -/
def execInr (dst : Operand) (s : State) : Result := changeOperand s dst fun v => v + 0x01#8

/-- DCR (R141). -/
def execDcr (dst : Operand) (s : State) : Result := changeOperand s dst fun v => v - 0x01#8

/-- RLC: `A[6:0] ++ A[7]` (R142). -/
def execRlc (s : State) : Result :=
  rotateTo s (s.a.extractLsb' 0 7 ++ s.a.extractLsb' 7 1) (s.a.getLsbD 7)

/-- RRC: `A[0] ++ A[7:1]` (R143). -/
def execRrc (s : State) : Result :=
  rotateTo s (s.a.extractLsb' 0 1 ++ s.a.extractLsb' 1 7) (s.a.getLsbD 0)

/-- RAL: `A[6:0] ++ CY` (R144). -/
def execRal (s : State) : Result :=
  rotateTo s (s.a.extractLsb' 0 7 ++ BitVec.ofBool s.flags.cy) (s.a.getLsbD 7)

/-- RAR: `CY ++ A[7:1]` (R145). -/
def execRar (s : State) : Result :=
  rotateTo s (BitVec.ofBool s.flags.cy ++ s.a.extractLsb' 1 7) (s.a.getLsbD 0)

/-- CMA (R146). -/
def execCma (s : State) : Result := .next ({ s with a := ~~~s.a }.advance 1#16)

/-- STC (R147). -/
def execStc (s : State) : Result := .next ({ s with flags := s.flags.setCarry true }.advance 1#16)

/-- CMC (R148). -/
def execCmc (s : State) : Result := .next ({ s with flags := s.flags.setCarry (!s.flags.cy) }.advance 1#16)

/-- DAD (R149). -/
def execDad (rp : Pair) (s : State) : Result :=
  let t := addPair s.hl (s.pair rp)
  .next ({ s.setPair .hl t.1 with flags := s.flags.setCarry t.2 }.advance 1#16)

/-- INX (R150). -/
def execInx (rp : Pair) (s : State) : Result := .next ((s.setPair rp (s.pair rp + 1#16)).advance 1#16)

/-- DCX (R151). -/
def execDcx (rp : Pair) (s : State) : Result := .next ((s.setPair rp (s.pair rp - 1#16)).advance 1#16)

end Sys2Proof.Machine
end

