-- ==== Sys2Proof/Machine/Jump.lean ====
section
/-! DEFINITION. The jumps (42_jump.md). -/

namespace Sys2Proof.Machine

/-- To the target if the condition holds, else past the three bytes (R170). -/
def jumpIf (s : State) (cond : Cond) (target : Word) : Result :=
  .next (if condHolds s.flags cond then s.goto target else s.advance 3#16)

/-- JMP (R171). -/
def execJmp (target : Word) (s : State) : Result := .next (s.goto target)

/-- JNZ (R172). -/
def execJnz (target : Word) (s : State) : Result := jumpIf s .nz target

/-- JZ (R173). -/
def execJz (target : Word) (s : State) : Result := jumpIf s .z target

/-- JNC (R174). -/
def execJnc (target : Word) (s : State) : Result := jumpIf s .nc target

/-- JC (R175). -/
def execJc (target : Word) (s : State) : Result := jumpIf s .c target

/-- JPO (R176). -/
def execJpo (target : Word) (s : State) : Result := jumpIf s .po target

/-- JPE (R177). -/
def execJpe (target : Word) (s : State) : Result := jumpIf s .pe target

/-- JP (R178). -/
def execJp (target : Word) (s : State) : Result := jumpIf s .p target

/-- JM (R179). -/
def execJm (target : Word) (s : State) : Result := jumpIf s .m target

end Sys2Proof.Machine
end

