-- ==== Sys2Proof/Machine/MemoryRegister.lean ====
section
/-! DEFINITION. Moves, immediates, loads and stores (43_memory_register.md). No flag is written. -/

namespace Sys2Proof.Machine

/-- MOV reg1,reg2; MOV reg,M; MOV M,reg (R191, R192, R193). MOV M,M is no instruction (R70, log 22). -/
def execMov (dst src : Operand) (s : State) : Result :=
  match dst, src with
  | .m, .m => .refused .movMemoryToMemory
  | .m, .reg r => attempt (writeOperand s .m (s.reg r)) fun t => .next (t.advance 1#16)
  | .reg r, src => attempt (readOperand s src) fun v => .next ((s.setReg r v).advance 1#16)

/-- MVI reg,byte and MVI M,byte (R194, R195). -/
def execMvi (dst : Operand) (imm : Byte) (s : State) : Result :=
  attempt (writeOperand s dst imm) fun t => .next (t.advance 2#16)

/-- LXI (R196). -/
def execLxi (rp : Pair) (imm : Word) (s : State) : Result := .next ((s.setPair rp imm).advance 3#16)

/-- LDA (R197). -/
def execLda (addr : Word) (s : State) : Result :=
  attempt (memRead s addr) fun v => .next ({ s with a := v }.advance 3#16)

/-- STA (R198). -/
def execSta (addr : Word) (s : State) : Result :=
  attempt (memWrite s addr s.a) fun t => .next (t.advance 3#16)

end Sys2Proof.Machine
end

