-- ==== Sys2Proof/Machine/Other.lean ====
section
/-! DEFINITION. HLT, IN, OUT and NOP (45_other.md). No flag is written. -/

namespace Sys2Proof.Machine

/-- HLT (R250). -/
def execHlt (s : State) : Result := .next ({ s with halted := true }.advance 1#16)

/-- IN: the byte the environment presents goes to A, and the event joins the trace (R251, 20_memory.md R52). -/
def execIn (port : Byte) (s : State) : Result :=
  let v := portIn s port
  .next (({ s with a := v }.record (.input port v)).advance 2#16)

/-- OUT: the event joins the trace (R252, 20_memory.md R52). -/
def execOut (port : Byte) (s : State) : Result := .next ((s.record (.output port s.a)).advance 2#16)

/-- NOP (R253). -/
def execNop (s : State) : Result := .next (s.advance 1#16)

end Sys2Proof.Machine
end

