-- ==== Sys2Proof/Machine/Stack.lean ====
section
/-! DEFINITION. POP, PUSH, calls and returns (44_stack.md). POP and PUSH are the source's names: POP stores
and PUSH loads, unless STACK_OPCODE_SENSE exchanges them (R211, log 11). -/

namespace Sys2Proof.Machine

/-! ### Shared operations -/

/-- The stack store of a pair (R212). -/
def storePair (s : State) (rp : StackPair) : Result :=
  attempt (stackStore s (s.stackPair rp)) fun t => .next (t.advance 1#16)

/-- The stack load of a pair (R213). -/
def loadPair (s : State) (rp : StackPair) : Result :=
  attempt (stackLoad s) fun r => .next ((r.2.setStackPair rp r.1).advance 1#16)

/-- Save the address of the next instruction, `pc + 3`, and go to the target (R214, log 12). -/
def callTo (s : State) (target : Word) : Result :=
  attempt (stackStore s (s.pc + 3#16)) fun t => .next (t.goto target)

/-- A call taken if the condition holds; else SP and memory are not touched (R215 to R222). -/
def callIf (s : State) (cond : Cond) (target : Word) : Result :=
  if condHolds s.flags cond then callTo s target else .next (s.advance 3#16)

/-- Go to the address loaded from the stack (R223). -/
def returnNow (s : State) : Result := attempt (stackLoad s) fun r => .next (r.2.goto r.1)

/-- A return taken if the condition holds; else SP stays and memory is not read (R224 to R231). -/
def returnIf (s : State) (cond : Cond) : Result :=
  if condHolds s.flags cond then returnNow s else .next (s.advance 1#16)

/-! ### The instructions -/

/-- POP, a stack store under the source's sense (R212, R211). -/
def execPop (rp : StackPair) (s : State) : Result :=
  match s.cfg.stackSense with
  | .source => storePair s rp
  | .intel8085 => loadPair s rp

/-- PUSH, a stack load under the source's sense (R213, R211). -/
def execPush (rp : StackPair) (s : State) : Result :=
  match s.cfg.stackSense with
  | .source => loadPair s rp
  | .intel8085 => storePair s rp

/-- CALL (R214). -/
def execCall (target : Word) (s : State) : Result := callTo s target

/-- CNZ (R215). -/
def execCnz (target : Word) (s : State) : Result := callIf s .nz target

/-- CZ (R216). -/
def execCz (target : Word) (s : State) : Result := callIf s .z target

/-- CNC (R217). -/
def execCnc (target : Word) (s : State) : Result := callIf s .nc target

/-- CC (R218). -/
def execCc (target : Word) (s : State) : Result := callIf s .c target

/-- CPO (R219). -/
def execCpo (target : Word) (s : State) : Result := callIf s .po target

/-- CPE (R220). -/
def execCpe (target : Word) (s : State) : Result := callIf s .pe target

/-- CP (R221). -/
def execCp (target : Word) (s : State) : Result := callIf s .p target

/-- CM (R222). -/
def execCm (target : Word) (s : State) : Result := callIf s .m target

/-- RET (R223). -/
def execRet (s : State) : Result := returnNow s

/-- RNZ (R224). -/
def execRnz (s : State) : Result := returnIf s .nz

/-- RZ (R225). -/
def execRz (s : State) : Result := returnIf s .z

/-- RNC (R226). -/
def execRnc (s : State) : Result := returnIf s .nc

/-- RC (R227). -/
def execRc (s : State) : Result := returnIf s .c

/-- RPO (R228). -/
def execRpo (s : State) : Result := returnIf s .po

/-- RPE (R229). -/
def execRpe (s : State) : Result := returnIf s .pe

/-- RP (R230). -/
def execRp (s : State) : Result := returnIf s .p

/-- RM (R231). -/
def execRm (s : State) : Result := returnIf s .m

end Sys2Proof.Machine
end

