-- ==== Sys2Proof/Machine/Dispatch.lean ====
section
/-! DEFINITION. One arm per constructor of `Instr`, each one direct call of that instruction's meaning. -/

namespace Sys2Proof.Machine

def exec (i : Instr) (s : State) : Host.Outcome State Fault Refusal :=
  match i with
  | .add src => Sys2Proof.Machine.execAdd src s
  | .adc src => Sys2Proof.Machine.execAdc src s
  | .sub src => Sys2Proof.Machine.execSub src s
  | .sbb src => Sys2Proof.Machine.execSbb src s
  | .ana src => Sys2Proof.Machine.execAna src s
  | .xra src => Sys2Proof.Machine.execXra src s
  | .ora src => Sys2Proof.Machine.execOra src s
  | .cmp src => Sys2Proof.Machine.execCmp src s
  | .adi imm => Sys2Proof.Machine.execAdi imm s
  | .aci imm => Sys2Proof.Machine.execAci imm s
  | .sui imm => Sys2Proof.Machine.execSui imm s
  | .sbi imm => Sys2Proof.Machine.execSbi imm s
  | .ani imm => Sys2Proof.Machine.execAni imm s
  | .xri imm => Sys2Proof.Machine.execXri imm s
  | .ori imm => Sys2Proof.Machine.execOri imm s
  | .cpi imm => Sys2Proof.Machine.execCpi imm s
  | .inr dst => Sys2Proof.Machine.execInr dst s
  | .dcr dst => Sys2Proof.Machine.execDcr dst s
  | .rlc => Sys2Proof.Machine.execRlc s
  | .rrc => Sys2Proof.Machine.execRrc s
  | .ral => Sys2Proof.Machine.execRal s
  | .rar => Sys2Proof.Machine.execRar s
  | .cma => Sys2Proof.Machine.execCma s
  | .stc => Sys2Proof.Machine.execStc s
  | .cmc => Sys2Proof.Machine.execCmc s
  | .dad rp => Sys2Proof.Machine.execDad rp s
  | .inx rp => Sys2Proof.Machine.execInx rp s
  | .dcx rp => Sys2Proof.Machine.execDcx rp s
  | .jmp target => Sys2Proof.Machine.execJmp target s
  | .jnz target => Sys2Proof.Machine.execJnz target s
  | .jz target => Sys2Proof.Machine.execJz target s
  | .jnc target => Sys2Proof.Machine.execJnc target s
  | .jc target => Sys2Proof.Machine.execJc target s
  | .jpo target => Sys2Proof.Machine.execJpo target s
  | .jpe target => Sys2Proof.Machine.execJpe target s
  | .jp target => Sys2Proof.Machine.execJp target s
  | .jm target => Sys2Proof.Machine.execJm target s
  | .mov dst src => Sys2Proof.Machine.execMov dst src s
  | .mvi dst imm => Sys2Proof.Machine.execMvi dst imm s
  | .lxi rp imm => Sys2Proof.Machine.execLxi rp imm s
  | .lda addr => Sys2Proof.Machine.execLda addr s
  | .sta addr => Sys2Proof.Machine.execSta addr s
  | .pop rp => Sys2Proof.Machine.execPop rp s
  | .push rp => Sys2Proof.Machine.execPush rp s
  | .call target => Sys2Proof.Machine.execCall target s
  | .cnz target => Sys2Proof.Machine.execCnz target s
  | .cz target => Sys2Proof.Machine.execCz target s
  | .cnc target => Sys2Proof.Machine.execCnc target s
  | .cc target => Sys2Proof.Machine.execCc target s
  | .cpo target => Sys2Proof.Machine.execCpo target s
  | .cpe target => Sys2Proof.Machine.execCpe target s
  | .cp target => Sys2Proof.Machine.execCp target s
  | .cm target => Sys2Proof.Machine.execCm target s
  | .ret => Sys2Proof.Machine.execRet s
  | .rnz => Sys2Proof.Machine.execRnz s
  | .rz => Sys2Proof.Machine.execRz s
  | .rnc => Sys2Proof.Machine.execRnc s
  | .rc => Sys2Proof.Machine.execRc s
  | .rpo => Sys2Proof.Machine.execRpo s
  | .rpe => Sys2Proof.Machine.execRpe s
  | .rp => Sys2Proof.Machine.execRp s
  | .rm => Sys2Proof.Machine.execRm s
  | .hlt => Sys2Proof.Machine.execHlt s
  | .inPort port => Sys2Proof.Machine.execIn port s
  | .outPort port => Sys2Proof.Machine.execOut port s
  | .nop => Sys2Proof.Machine.execNop s

end Sys2Proof.Machine
end

