-- ==== Sys2Proof/Machine/Step.lean ====
section
/-! DEFINITION. One step of the machine (00_scope.md R8), and where the host puts an instruction to be run. -/

namespace Sys2Proof.Machine

/-- One step. A halted machine changes nothing (10_state.md R25, log 8); a running one fetches, decodes and
runs one instruction (20_memory.md R51), and the index of the free values moves on (log 5). -/
def step (s : State) : Host.Outcome State Fault Refusal :=
  if s.halted then .next s
  else
    match fetch s with
    | .error f => raise f
    | .ok i =>
      match exec i s with
      | .next t => .next t.nextTick
      | .fault f => .fault f
      | .refused r => .refused r

/-- `s` with an instruction of the opcode table loaded at pc, three bytes, and the processor running: it
stands for the environment's load of a program (log 21). -/
def State.withFetchWord (s : State) (nbits w : Nat) : State :=
  State.load { s with halted := false } s.pc (tableBytes nbits w)

end Sys2Proof.Machine
end

