-- ==== Sys2Proof/Safety.lean ====
section
/-! DEFINITION. What a good state and a good run are, in the terms the statements use. -/

namespace Sys2Proof.Safety

open Sys2Proof.Machine

/-- Memory is in its canonical form. -/
def MemoryCanonical (s : State) : Prop := Memory.wf s.mem

/-- Every cell is RAM, and every cell reads as some byte: no access of an instruction can fault
(20_memory.md R40, R41, R49). -/
def MemoryPresent (s : State) : Prop :=
  ∀ addr : Word, s.cellKind addr = .ram ∧ ∃ v, memRead s addr = .ok v

/-- A run of `k` steps ends successfully: it reaches a halted state and no fault on the way
(70_reset_and_hazards.md R294). -/
def EndsSuccessfully (s : State) (k : Nat) : Prop :=
  ∃ t : State, Host.Core.run core k s = .next t ∧ t.halted = true

/-- A run of `k` steps ends in a fault: an unsuccessful end (60_exceptions.md R262). -/
def EndsInFault (s : State) (k : Nat) : Prop :=
  ∃ f : Fault, Host.Core.run core k s = .fault f

end Sys2Proof.Safety
end

