-- ==== Sys2Proof/Certificates/Slice0/Obligations.lean ====
section
/-! DEFINITION. The statements for the provers. A statement whose docstring names a decision D<n> rests on the
spec's own choice of 92_eei_decisions.md, not on its source; one that names a log entry rests on the model's. -/

namespace Sys2Proof.Claims

open Sys2Proof Sys2Proof.Machine

/-! ### Words the statements share, said in integers and fields, not in the meanings' own operations -/

/-- `v` is the second operand of 40_alu_accumulator.md R104: a register, or the memory byte at H ++ L. -/
def OperandIs (s : State) (o : Operand) (v : Byte) : Prop :=
  match o with
  | .reg r => s.reg r = v
  | .m => memRead s (s.h ++ s.l) = .ok v

/-- S, Z and P of a result (40_alu_accumulator.md R100) beside a given CY. -/
def flagsOf (r : Byte) (cy : Bool) : Flags :=
  { s := decide (128 ≤ r.toNat), z := decide (r.toNat = 0),
    p := decide (((List.range 8).filter fun i => r.getLsbD i).length % 2 = 0), cy := cy }

/-- `s` with a new A, all four flags from it and `cy`, and pc moved on: nothing else changed, no byte of memory,
no other register. -/
def accumulatorSet (s : State) (r : Byte) (cy : Bool) (len : Word) : State :=
  { s with a := r, flags := flagsOf r cy, pc := s.pc + len }

/-- `s` with the four flags of a result, and pc moved on: A is not written. -/
def compareSet (s : State) (r : Byte) (cy : Bool) (len : Word) : State :=
  { s with flags := flagsOf r cy, pc := s.pc + len }

/-- All of memory, the halted bit, the port trace, the parameters and the index are those of `s`. (With memory and
parameters equal every read of memory gives what it gave before.) -/
def OutsideRegistersSame (s t : State) : Prop :=
  t.mem = s.mem ∧ t.halted = s.halted ∧ t.trace = s.trace ∧ t.cfg = s.cfg ∧ t.tick = s.tick

/-- Register `r` holds `v` and every other register what it held. -/
def OnlyRegister (s t : State) (r : Reg) (v : Byte) : Prop :=
  ∀ q : Reg, t.reg q = if q = r then v else s.reg q

/-- The byte at `addr` reads as `v`, and every other byte of memory reads as before. -/
def StoresByte (s t : State) (addr : Word) (v : Byte) : Prop :=
  memRead t addr = .ok v ∧ ∀ x, x ≠ addr → memRead t x = memRead s x

/-- The word `w` lies at `addr`, its low byte first, and every byte outside these two reads as before. -/
def StoresWord (s t : State) (addr : Word) (w : Word) : Prop :=
  memRead t addr = .ok (w.extractLsb' 0 8) ∧ memRead t (addr + 1#16) = .ok (w.extractLsb' 8 8) ∧
    ∀ x, x ≠ addr → x ≠ addr + 1#16 → memRead t x = memRead s x

/-- The registers of a pair written out, the first-named one high (10_state.md R13, the spec's own decision D2). -/
def pairIs (s : State) : Pair → Word
  | .bc => s.b ++ s.c
  | .de => s.d ++ s.e
  | .hl => s.h ++ s.l
  | .sp => s.sp

/-- The registers of a pair of the stack group written out; F has zeros at its constant bits (10_state.md R17, R18, the
spec's own decisions D2 and D14). -/
def stackPairIs (s : State) : StackPair → Word
  | .bc => s.b ++ s.c
  | .de => s.d ++ s.e
  | .hl => s.h ++ s.l
  | .psw => s.a ++ BitVec.ofNat 8 (128 * s.flags.s.toNat + 64 * s.flags.z.toNat + 4 * s.flags.p.toNat +
      s.flags.cy.toNat)

/-- The bytes `bs` are what memory reads as from `addr` on. -/
def BytesAt (s : State) (addr : Word) (bs : List Byte) : Prop :=
  ∀ (n : Nat) (v : Byte), bs[n]? = some v → memRead s (addr + BitVec.ofNat 16 n) = .ok v

/-- An answer with its next state changed by `g`; a fault or a refusal stays as it is. -/
def onNext (g : State → State) : Result → Result
  | .next t => .next (g t)
  | .fault f => .fault f
  | .refused x => .refused x

/-- What a step answers when the instruction it runs answers `r`: the index of the free values moves on (log 5). -/
def stepAnswer (r : Result) : Result := onNext (fun t => { t with tick := t.tick + 1 }) r

/-- The 33 opcode bytes of 30_encoding.md R78. -/
def unassignedBytes : List Byte :=
  [0x02, 0x08, 0x0A, 0x10, 0x12, 0x18, 0x1A, 0x20, 0x22, 0x27, 0x28, 0x2A, 0x30, 0x38,
   0xC7, 0xCB, 0xCF, 0xD7, 0xD9, 0xDD, 0xDF, 0xE3, 0xE7, 0xE9, 0xEB, 0xED, 0xEF, 0xF3, 0xF7, 0xF9, 0xFB, 0xFD, 0xFF]

/-- The 24 opcode bytes of length 3 (30_encoding.md R68). -/
def threeByteOpcodes : List Byte :=
  [0x01, 0x11, 0x21, 0x31, 0x32, 0x3A, 0xC3, 0xC2, 0xCA, 0xD2, 0xDA, 0xE2, 0xEA, 0xF2, 0xFA,
   0xCD, 0xC4, 0xCC, 0xD4, 0xDC, 0xE4, 0xEC, 0xF4, 0xFC]

/-- The 18 opcode bytes of length 2 (30_encoding.md R68). -/
def twoByteOpcodes : List Byte :=
  [0x06, 0x0E, 0x16, 0x1E, 0x26, 0x2E, 0x36, 0x3E, 0xC6, 0xCE, 0xD6, 0xDE, 0xE6, 0xEE, 0xF6, 0xFE, 0xD3, 0xDB]

/-! ### Who writes what (10_state.md R12, R19, R21; 20_memory.md R46) -/

/-- POP and PUSH: which of them loads under STACK_OPCODE_SENSE (44_stack.md R211). -/
def popLoads (s : State) : Bool := s.cfg.stackSense == .intel8085

/-- The rows of 10_state.md R19 that write S, Z and P. -/
def writesSzp (s : State) : Instr → Bool
  | .add _ | .adc _ | .sub _ | .sbb _ | .ana _ | .xra _ | .ora _ | .cmp _
  | .adi _ | .aci _ | .sui _ | .sbi _ | .ani _ | .xri _ | .ori _ | .cpi _ | .inr _ | .dcr _ => true
  | .pop rp => rp == .psw && popLoads s
  | .push rp => rp == .psw && !popLoads s
  | _ => false

/-- The rows of 10_state.md R19 that write CY. -/
def writesCarry (s : State) : Instr → Bool
  | .add _ | .adc _ | .sub _ | .sbb _ | .ana _ | .xra _ | .ora _ | .cmp _
  | .adi _ | .aci _ | .sui _ | .sbi _ | .ani _ | .xri _ | .ori _ | .cpi _
  | .rlc | .rrc | .ral | .rar | .stc | .cmc | .dad _ => true
  | .pop rp => rp == .psw && popLoads s
  | .push rp => rp == .psw && !popLoads s
  | _ => false

/-- The registers of a pair. -/
def inPair (q : Reg) : Pair → Bool
  | .bc => q == .b || q == .c
  | .de => q == .d || q == .e
  | .hl => q == .h || q == .l
  | .sp => false

/-- The registers of a pair of the stack group. -/
def inStackPair (q : Reg) : StackPair → Bool
  | .bc => q == .b || q == .c
  | .de => q == .d || q == .e
  | .hl => q == .h || q == .l
  | .psw => q == .a

/-- The 8-bit registers an instruction writes (10_state.md R12). -/
def writesRegister (s : State) (q : Reg) : Instr → Bool
  | .add _ | .adc _ | .sub _ | .sbb _ | .ana _ | .xra _ | .ora _
  | .adi _ | .aci _ | .sui _ | .sbi _ | .ani _ | .xri _ | .ori _
  | .rlc | .rrc | .ral | .rar | .cma | .lda _ | .inPort _ => q == .a
  | .inr dst | .dcr dst | .mov dst _ | .mvi dst _ => dst == .reg q
  | .dad _ => inPair q .hl
  | .inx rp | .dcx rp | .lxi rp _ => inPair q rp
  | .pop rp => inStackPair q rp && popLoads s
  | .push rp => inStackPair q rp && !popLoads s
  | _ => false

/-- The instructions that store a word below SP in a state (10_state.md R21, 20_memory.md R46): the stack store, CALL,
and a conditional call that is taken. -/
def stackStores (s : State) : Instr → Bool
  | .pop _ => !popLoads s
  | .push _ => popLoads s
  | .call _ => true
  | .cnz _ => !s.flags.z
  | .cz _ => s.flags.z
  | .cnc _ => !s.flags.cy
  | .cc _ => s.flags.cy
  | .cpo _ => !s.flags.p
  | .cpe _ => s.flags.p
  | .cp _ => !s.flags.s
  | .cm _ => s.flags.s
  | _ => false

/-- The instructions that load a word from SP in a state (10_state.md R21, 20_memory.md R46): the stack load, RET, and a
conditional return that is taken. -/
def stackLoads (s : State) : Instr → Bool
  | .pop _ => popLoads s
  | .push _ => !popLoads s
  | .ret => true
  | .rnz => !s.flags.z
  | .rz => s.flags.z
  | .rnc => !s.flags.cy
  | .rc => s.flags.cy
  | .rpo => !s.flags.p
  | .rpe => s.flags.p
  | .rp => !s.flags.s
  | .rm => s.flags.s
  | _ => false

/-- The instructions that write SP in a state (10_state.md R21). -/
def writesSp (s : State) (i : Instr) : Bool :=
  match i with
  | .lxi rp _ | .inx rp | .dcx rp => rp == .sp
  | _ => stackStores s i || stackLoads s i

/-- The addresses an instruction stores to in a state (20_memory.md R46). -/
def storedAddresses (s : State) (i : Instr) : List Word :=
  match i with
  | .inr .m | .dcr .m | .mov .m _ | .mvi .m _ => [s.h ++ s.l]
  | .sta addr => [addr]
  | _ => if stackStores s i then [s.sp - 1#16, s.sp - 2#16] else []

/-! ### Shapes of control transfer -/

/-- A jump: its three bytes, and where it goes; nothing but pc changes. -/
def JumpsWhen (s : State) (i : Instr) (op : Byte) (taken : Bool) (target : Word) : Prop :=
  encode i = [op, target.extractLsb' 0 8, target.extractLsb' 8 8] ∧
    exec i s = .next { s with pc := if taken then target else s.pc + 3#16 }

/-- A call: its three bytes; taken, the address of the next instruction goes to the two bytes below SP, SP goes
down by 2 and pc to the target; not taken, only pc changes. -/
def CallsWhen (s : State) (i : Instr) (op : Byte) (taken : Bool) (target : Word) : Prop :=
  encode i = [op, target.extractLsb' 0 8, target.extractLsb' 8 8] ∧
    (taken = true → s.cellKind (s.sp - 1#16) = .ram → s.cellKind (s.sp - 2#16) = .ram →
      ∃ t, exec i s = .next t ∧ StoresWord s t (s.sp - 2#16) (s.pc + 3#16) ∧
        t = { s with mem := t.mem, sp := s.sp - 2#16, pc := target }) ∧
    (taken = false → exec i s = .next { s with pc := s.pc + 3#16 })

/-- A return: its one byte; taken, pc is the word at SP, low byte first, and SP goes up by 2; not taken, only pc
changes. -/
def ReturnsWhen (s : State) (i : Instr) (op : Byte) (taken : Bool) : Prop :=
  encode i = [op] ∧
    (taken = true → ∀ lo hi, memRead s s.sp = .ok lo → memRead s (s.sp + 1#16) = .ok hi →
      exec i s = .next { s with sp := s.sp + 2#16, pc := hi ++ lo }) ∧
    (taken = false → exec i s = .next { s with pc := s.pc + 1#16 })

/-- An instruction run `n` times in a row. -/
def execTimes : Nat → Instr → State → Result
  | 0, _, s => .next s
  | n + 1, i, s =>
    match exec i s with
    | .next t => execTimes n i t
    | .fault f => .fault f
    | .refused x => .refused x

end Sys2Proof.Claims

open Sys2Proof Sys2Proof.Machine Sys2Proof.Claims

/-! ## Encoding, fetch and step -/

/-- Decoding what the encoder writes gives the instruction back, whatever bytes follow: no bit of an encoding is
dropped (30_encoding.md, sections 1 to 3). -/
def Obligations.DecodeOfEncodeIsTheInstruction : Prop :=
  ∀ (i : Instr) (rest : List Byte), i.wellFormed = true → decode (encode i ++ rest) = .ok (i, rest)

/-- Bytes that decode are the encoding of what they decode to, and that is well formed: every instruction has one
encoding (30_encoding.md, sections 3 and 6: "one encoding per operand choice"). -/
def Obligations.EncodeOfDecodeIsTheBytes : Prop :=
  ∀ (i : Instr) (bs rest : List Byte), decode bs = .ok (i, rest) → i.wellFormed = true ∧ encode i ++ rest = bs

/-- Words written out from the spec's encodings, one or more of every family, decode as the spec says
(95_test_vectors.md section 1). The operand bytes of JPE, LXI and CC stand low byte first (30_encoding.md section 2,
the spec's own decision D4; log 10). -/
def Obligations.WrittenOutWordsDecode : Prop :=
  decode [0b10000011#8] = .ok (.add (.reg .e), []) ∧ decode [0b10111110#8] = .ok (.cmp .m, []) ∧
    decode [0b11011110#8, 0x0F#8] = .ok (.sbi 0x0F#8, []) ∧ decode [0b00100101#8] = .ok (.dcr (.reg .h), []) ∧
    decode [0b00011111#8] = .ok (.rar, []) ∧ decode [0b00111001#8] = .ok (.dad .sp, []) ∧
    decode [0b11101010#8, 0x34#8, 0x12#8] = .ok (.jpe 0x1234#16, []) ∧
    decode [0b01110011#8] = .ok (.mov .m (.reg .e), []) ∧ decode [0b01110110#8] = .ok (.hlt, []) ∧
    decode [0b00110001#8, 0x00#8, 0xF0#8] = .ok (.lxi .sp 0xF000#16, []) ∧
    decode [0b11110001#8] = .ok (.pop .psw, []) ∧ decode [0b11110101#8] = .ok (.push .psw, []) ∧
    decode [0b11011100#8, 0x10#8, 0x00#8] = .ok (.cc 0x0010#16, []) ∧ decode [0b11010000#8] = .ok (.rnc, []) ∧
    decode [0b11011011#8, 0x01#8] = .ok (.inPort 0x01#8, [])

/-- The first byte alone decides how many bytes an instruction takes: 3, 2 or 1, by the lists of 30_encoding.md
section 2; of any three bytes or more the decoder leaves the rest. -/
def Obligations.OpcodeAloneDecidesTheLength : Prop :=
  ∀ (b x y : Byte) (more : List Byte), b ∉ unassignedBytes →
    ∃ i, decode (b :: x :: y :: more) = .ok (i,
      if b ∈ threeByteOpcodes then more else if b ∈ twoByteOpcodes then y :: more else x :: y :: more)

/-- A step at a byte is the fault IllegalOpcode, with the address and the byte, exactly when the byte is one of the
33 (the spec's own decision D15; the fault carries no state: nothing has changed). -/
def Obligations.UnassignedOpcodeIsAFault : Prop :=
  ∀ (s : State) (b : Byte), s.halted = false → memRead s s.pc = .ok b →
    (b ∈ unassignedBytes ↔ step s = .fault (.illegalOpcode s.pc b))

/-- A step at bytes that decode to an instruction is `exec` of that instruction (that a step is one whole instruction,
fetched at pc, is the spec's own decisions D3, D25 and D30, log 23), and the index of the free values moves on (log 5);
nothing else is added around it. -/
def Obligations.StepRunsTheDecodedInstruction : Prop :=
  ∀ (s : State) (i : Instr) (bs rest : List Byte), s.halted = false → BytesAt s s.pc bs →
    decode bs = .ok (i, rest) → step s = stepAnswer (exec i s)

/-- A step where memory holds the encoding of a well-formed instruction at pc runs that instruction (the spec's own
decisions D3, D25 and D30, log 23; the index is log 5). -/
def Obligations.StepRunsTheEncodedInstruction : Prop :=
  ∀ (s : State) (i : Instr), i.wellFormed = true → s.halted = false → BytesAt s s.pc (encode i) →
    step s = stepAnswer (exec i s)

/-- Fetch reads the opcode byte, then the operand bytes in ascending order, and the first read that faults is the
step's fault (the spec's own decisions D17, D21 and D30; taken or not makes no difference). -/
def Obligations.FetchFaultsInOrder : Prop :=
  ∀ (s : State) (f : Fault), s.halted = false →
    (memRead s s.pc = .error f → step s = .fault f) ∧
    (∀ b, memRead s s.pc = .ok b → (b ∈ twoByteOpcodes ∨ b ∈ threeByteOpcodes) →
      memRead s (s.pc + 1#16) = .error f → step s = .fault f) ∧
    (∀ b lo, memRead s s.pc = .ok b → b ∈ threeByteOpcodes → memRead s (s.pc + 1#16) = .ok lo →
      memRead s (s.pc + 2#16) = .error f → step s = .fault f)

/-- A halted machine stays exactly as it is however many steps it is given (the spec's own decision D19; that the
model answers the unchanged state is log 8). -/
def Obligations.HaltedMachineStaysAsItIs : Prop :=
  ∀ (s : State) (n : Nat), s.halted = true → Host.Core.run core n s = .next s

/-! ## Memory -/

/-- Every step keeps memory in its canonical form (the model's own representation, log 3). -/
def Obligations.StepKeepsMemoryCanonical : Prop :=
  ∀ s t : State, Safety.MemoryCanonical s → step s = .next t → Safety.MemoryCanonical t

/-- Memory is in its canonical form after reset. -/
def Obligations.ResetMemoryIsCanonical : Prop := Safety.MemoryCanonical State.reset

/-- A write to RAM is done; the byte then reads as written, to data accesses and to fetches alike (one read serves
both), and no other byte reads otherwise (20_memory.md sections 1, 4 and 6; the spec's own decisions D16 and D24). -/
def Obligations.WriteThenReadGivesTheByte : Prop :=
  ∀ (s : State) (addr : Word) (v : Byte), s.cellKind addr = .ram →
    ∃ t, memWrite s addr v = .ok t ∧ StoresByte s t addr v ∧ t = { s with mem := t.mem }

/-- What MEM_MAP forbids: writing ROM or an absent cell, and reading an absent cell, is the fault UnmappedAccess with
the address (the spec's own decision D16). -/
def Obligations.MemMapGuardsAccesses : Prop :=
  ∀ (s : State) (addr : Word) (v : Byte),
    (s.cellKind addr ≠ .ram → memWrite s addr v = .error (.unmappedAccess addr)) ∧
    (s.cellKind addr = .absent → memRead s addr = .error (.unmappedAccess addr)) ∧
    (s.cellKind addr ≠ .absent → memRead s addr ≠ .error (.unmappedAccess addr))

/-- A cell that nobody loaded or wrote: UnsetRead with its address, or a byte that nothing fixes but that is the same in
every state (the spec's own decision D31, log 3). The second clause holds for every value of the free byte. -/
def Obligations.UnsetCellReadsAsTheParameterSays : Prop :=
  ∀ (s : State) (addr : Word), s.cellKind addr ≠ .absent → Memory.lookup s.mem addr.toNat = none →
    (s.cfg.unset = .faultOnRead → memRead s addr = .error (.unsetRead addr)) ∧
    (s.cfg.unset = .draw → memRead s addr = .ok (Config.unsetByte addr))

/-- A step changes what an address reads as only where the instruction run stores: with no write between, two reads of a
cell give the same byte or the same fault, in this step and the next, whether the cell was ever written or not
(20_memory.md section 4; the spec's own decisions D2, D11, D16 and D31). -/
def Obligations.ReadsStayTheSameUntilAWrite : Prop :=
  ∀ (s t : State) (i : Instr) (addr : Word), i.wellFormed = true → BytesAt s s.pc (encode i) → step s = .next t →
    addr ∉ storedAddresses s i → memRead t addr = memRead s addr

/-- No step changes a cell that is not RAM, whatever instruction runs (the spec's own decision D16). -/
def Obligations.OnlyRamCellsChange : Prop :=
  ∀ (s t : State) (addr : Word), step s = .next t → s.cellKind addr ≠ .ram →
    Memory.lookup t.mem addr.toNat = Memory.lookup s.mem addr.toNat

/-- An instruction that goes on changes no byte of memory but those at the addresses 20_memory.md section 4 says it
stores to (the spec's own decisions D2 for H ++ L and D11 for POP and PUSH). -/
def Obligations.MemoryChangesOnlyWhereStored : Prop :=
  ∀ (i : Instr) (s t : State) (addr : Word), exec i s = .next t → addr ∉ storedAddresses s i →
    memRead t addr = memRead s addr

/-! ## The whole machine -/

/-- Every step keeps the parameters, never withdraws a port event, and a running one moves the model's index on by
one (logs 4, 5 and 7). -/
def Obligations.StepKeepsParametersAndTrace : Prop :=
  ∀ s t : State, step s = .next t →
    t.cfg = s.cfg ∧ s.trace <+: t.trace ∧ (s.halted = false → t.tick = s.tick + 1)

/-- Flags change only where the table of 10_state.md section 4 says they are written (the spec's own decisions D6
and D26). -/
def Obligations.FlagsChangeOnlyWhereListed : Prop :=
  ∀ (i : Instr) (s t : State), exec i s = .next t →
    (writesSzp s i = false → t.flags.s = s.flags.s ∧ t.flags.z = s.flags.z ∧ t.flags.p = s.flags.p) ∧
    (writesCarry s i = false → t.flags.cy = s.flags.cy)

/-- An 8-bit register changes only where an instruction has it as a destination, and SP only where 10_state.md
section 5 says so (the spec's own decision D11 for POP and PUSH). -/
def Obligations.RegistersChangeOnlyWhereListed : Prop :=
  ∀ (i : Instr) (s t : State), exec i s = .next t →
    (∀ q, writesRegister s q i = false → t.reg q = s.reg q) ∧ (writesSp s i = false → t.sp = s.sp)

/-- Only HLT halts and only IN and OUT add to the port trace (the spec's own decisions D19 and D18); the trace, the
parameters and the index as fields of the state are the model's own, and no instruction touches the last two (logs 7, 4
and 5). -/
def Obligations.OnlyHltHaltsAndOnlyPortsTrace : Prop :=
  ∀ (i : Instr) (s t : State), exec i s = .next t →
    (i ≠ .hlt → t.halted = s.halted) ∧
    ((∀ p, i ≠ .inPort p ∧ i ≠ .outPort p) → t.trace = s.trace) ∧ t.cfg = s.cfg ∧ t.tick = s.tick

/-- Outside IN and OUT an instruction does the same whatever the port trace holds (the spec's own decision D18: ports hold
no state of the machine). IN is left out because the byte it draws may depend on the trace (log 6). -/
def Obligations.OutsideInAndOutTheTraceIsIgnored : Prop :=
  ∀ (i : Instr) (s : State) (tr : List PortEvent), (∀ p, i ≠ .inPort p ∧ i ≠ .outPort p) →
    exec i { s with trace := tr } = onNext (fun t => { t with trace := tr }) (exec i s)

/-- Every instruction of the machine completes where all memory is RAM and reads as something: no mode, no flag, no
register value and no operand stops one (60_exceptions.md section 1; the spec's own decisions D21 and D22). That a
register, a flag or SP which nobody has written stops none either is the model's own choice, log 2. -/
def Obligations.EveryInstructionCompletesWithMemoryPresent : Prop :=
  ∀ (i : Instr) (s : State), i.wellFormed = true → Safety.MemoryPresent s → ∃ t, exec i s = .next t

/-- An instruction faults only at an access that MEM_MAP forbids or at a read of a cell with no value; never with
IllegalOpcode (60_exceptions.md section 1; the spec's own decisions D16 and D31). That none faults at a register, a flag
or SP which nobody has written is the model's own choice, log 2. -/
def Obligations.InstructionFaultsAreMemoryFaults : Prop :=
  ∀ (i : Instr) (s : State) (f : Fault), exec i s = .fault f →
    (∃ addr, f = .unmappedAccess addr ∧ s.cellKind addr ≠ .ram) ∨
    (∃ addr, f = .unsetRead addr ∧ s.cellKind addr ≠ .absent ∧ Memory.lookup s.mem addr.toNat = none ∧
      s.cfg.unset = .faultOnRead)

/-- Where every cell is RAM, as under the default MEM_MAP, only IllegalOpcode and UnsetRead can stop a step (the spec's own
decisions D15, D16 and D31: "With the default parameters (MEM_MAP all RAM) only IllegalOpcode and UnsetRead can occur"),
and no step is refused. That UnsetRead is of a memory cell only is the model's own choice, log 2. -/
def Obligations.AllRamLeavesTwoFaults : Prop :=
  ∀ s : State, (∀ addr, s.cellKind addr = .ram) →
    (∀ f, step s = .fault f → (∃ b, f = .illegalOpcode s.pc b) ∨ ∃ addr, f = .unsetRead addr) ∧
    ∀ x, step s ≠ .refused x

/-- MOV M,M is the one ill-formed term: it is refused by its own name in every state, nothing else is refused, and no
bytes decode to it, its byte being HLT (30_encoding.md section 3; log 22). -/
def Obligations.MovMemoryToMemoryIsNoInstruction : Prop :=
  (∀ i : Instr, i.wellFormed = false ↔ i = .mov .m .m) ∧
    (∀ (i : Instr) (s : State) (x : Refusal), exec i s = .refused x ↔ i = .mov .m .m ∧ x = .movMemoryToMemory) ∧
    (∀ bs rest, decode bs ≠ .ok (.mov .m .m, rest)) ∧ decode (encode (.mov .m .m)) = .ok (.hlt, [])

/-- The first memory access of an instruction that reads or writes M, or a cell it names, stops it with the fault of
that access, whatever else its rule does (60_exceptions.md section 1, the spec's own decisions D2, D17 and D21). -/
def Obligations.MemoryFaultStopsTheInstruction : Prop :=
  ∀ (s : State) (f : Fault),
    (memRead s (s.h ++ s.l) = .error f →
      ∀ i ∈ [Instr.add .m, .adc .m, .sub .m, .sbb .m, .ana .m, .xra .m, .ora .m, .cmp .m, .inr .m, .dcr .m],
        exec i s = .fault f) ∧
    (∀ r, memRead s (s.h ++ s.l) = .error f → exec (.mov (.reg r) .m) s = .fault f) ∧
    (∀ addr, memRead s addr = .error f → exec (.lda addr) s = .fault f) ∧
    (∀ addr, s.cellKind addr ≠ .ram → exec (.sta addr) s = .fault (.unmappedAccess addr)) ∧
    (s.cellKind (s.h ++ s.l) ≠ .ram → ∀ r v,
      exec (.mov .m (.reg r)) s = .fault (.unmappedAccess (s.h ++ s.l)) ∧
      exec (.mvi .m v) s = .fault (.unmappedAccess (s.h ++ s.l))) ∧
    (s.cellKind (s.h ++ s.l) = .rom → ∀ v, memRead s (s.h ++ s.l) = .ok v →
      exec (.inr .m) s = .fault (.unmappedAccess (s.h ++ s.l)) ∧
      exec (.dcr .m) s = .fault (.unmappedAccess (s.h ++ s.l)))

/-! ## Accumulator operations -/

/-- ADD and ADC, register and M forms: the sum modulo 256 to A, the four flags, and nothing else (that M lies at H ++ L
is the spec's own decision D2). -/
def Obligations.AddAndAdcAddModulo256 : Prop :=
  ∀ (s : State) (src : Operand) (v : Byte), OperandIs s src v →
    encode (.add src) = [0b10#2 ++ 0b000#3 ++ operandCode src] ∧
    exec (.add src) s = .next (accumulatorSet s (BitVec.ofNat 8 (s.a.toNat + v.toNat))
      (decide (256 ≤ s.a.toNat + v.toNat)) 1#16) ∧
    encode (.adc src) = [0b10#2 ++ 0b001#3 ++ operandCode src] ∧
    exec (.adc src) s = .next (accumulatorSet s (BitVec.ofNat 8 (s.a.toNat + v.toNat + s.flags.cy.toNat))
      (decide (256 ≤ s.a.toNat + v.toNat + s.flags.cy.toNat)) 1#16)

/-- ADI and ACI: as ADD and ADC with the immediate byte, two bytes long. -/
def Obligations.AdiAndAciAddModulo256 : Prop :=
  ∀ (s : State) (v : Byte),
    encode (.adi v) = [0xC6, v] ∧
    exec (.adi v) s = .next (accumulatorSet s (BitVec.ofNat 8 (s.a.toNat + v.toNat))
      (decide (256 ≤ s.a.toNat + v.toNat)) 2#16) ∧
    encode (.aci v) = [0xCE, v] ∧
    exec (.aci v) s = .next (accumulatorSet s (BitVec.ofNat 8 (s.a.toNat + v.toNat + s.flags.cy.toNat))
      (decide (256 ≤ s.a.toNat + v.toNat + s.flags.cy.toNat)) 2#16)

/-- SUB and SBB, register and M forms: the difference modulo 256 to A, CY the borrow, and nothing else (that M lies at
H ++ L is the spec's own decision D2). -/
def Obligations.SubAndSbbSubtractModulo256 : Prop :=
  ∀ (s : State) (src : Operand) (v : Byte), OperandIs s src v →
    encode (.sub src) = [0b10#2 ++ 0b010#3 ++ operandCode src] ∧
    exec (.sub src) s = .next (accumulatorSet s (BitVec.ofInt 8 ((s.a.toNat : Int) - v.toNat))
      (decide (s.a.toNat < v.toNat)) 1#16) ∧
    encode (.sbb src) = [0b10#2 ++ 0b011#3 ++ operandCode src] ∧
    exec (.sbb src) s = .next (accumulatorSet s (BitVec.ofInt 8 ((s.a.toNat : Int) - v.toNat - s.flags.cy.toNat))
      (decide (s.a.toNat < v.toNat + s.flags.cy.toNat)) 1#16)

/-- SUI and SBI: as SUB and SBB with the immediate byte, two bytes long. -/
def Obligations.SuiAndSbiSubtractModulo256 : Prop :=
  ∀ (s : State) (v : Byte),
    encode (.sui v) = [0xD6, v] ∧
    exec (.sui v) s = .next (accumulatorSet s (BitVec.ofInt 8 ((s.a.toNat : Int) - v.toNat))
      (decide (s.a.toNat < v.toNat)) 2#16) ∧
    encode (.sbi v) = [0xDE, v] ∧
    exec (.sbi v) s = .next (accumulatorSet s (BitVec.ofInt 8 ((s.a.toNat : Int) - v.toNat - s.flags.cy.toNat))
      (decide (s.a.toNat < v.toNat + s.flags.cy.toNat)) 2#16)

/-- CMP and CPI: the flags of the difference, A not written (S, P and CY are the spec's own decision D7, M at H ++ L
is D2). -/
def Obligations.CmpAndCpiSetOnlyFlags : Prop :=
  (∀ (s : State) (src : Operand) (v : Byte), OperandIs s src v →
    encode (.cmp src) = [0b10#2 ++ 0b111#3 ++ operandCode src] ∧
    exec (.cmp src) s = .next (compareSet s (BitVec.ofInt 8 ((s.a.toNat : Int) - v.toNat))
      (decide (s.a.toNat < v.toNat)) 1#16)) ∧
  ∀ (s : State) (v : Byte),
    encode (.cpi v) = [0xFE, v] ∧
    exec (.cpi v) s = .next (compareSet s (BitVec.ofInt 8 ((s.a.toNat : Int) - v.toNat))
      (decide (s.a.toNat < v.toNat)) 2#16)

/-- ANA, XRA and ORA: the bitwise result to A, S, Z, P from it; CY is 0 under LOGIC_CARRY = clear and a bit nothing
fixes under draw (the spec's own decision D6, log 9; M at H ++ L is D2). It holds for every value of the free bit. -/
def Obligations.AnaXraOraAreBitwise : Prop :=
  ∀ (s : State) (src : Operand) (v : Byte) (cy : Bool), OperandIs s src v →
    (s.cfg.logicCarry = .clear → cy = false) → (s.cfg.logicCarry = .draw → cy = Config.drawnCarry s.tick) →
    encode (.ana src) = [0b10#2 ++ 0b100#3 ++ operandCode src] ∧
    exec (.ana src) s = .next (accumulatorSet s (s.a &&& v) cy 1#16) ∧
    encode (.xra src) = [0b10#2 ++ 0b101#3 ++ operandCode src] ∧
    exec (.xra src) s = .next (accumulatorSet s (s.a ^^^ v) cy 1#16) ∧
    encode (.ora src) = [0b10#2 ++ 0b110#3 ++ operandCode src] ∧
    exec (.ora src) s = .next (accumulatorSet s (s.a ||| v) cy 1#16)

/-- ANI, XRI and ORI: as ANA, XRA and ORA with the immediate byte, two bytes long (the spec's own decision D6; log 9). -/
def Obligations.AniXriOriAreBitwise : Prop :=
  ∀ (s : State) (v : Byte) (cy : Bool),
    (s.cfg.logicCarry = .clear → cy = false) → (s.cfg.logicCarry = .draw → cy = Config.drawnCarry s.tick) →
    encode (.ani v) = [0xE6, v] ∧
    exec (.ani v) s = .next (accumulatorSet s (s.a &&& v) cy 2#16) ∧
    encode (.xri v) = [0xEE, v] ∧
    exec (.xri v) s = .next (accumulatorSet s (s.a ^^^ v) cy 2#16) ∧
    encode (.ori v) = [0xF6, v] ∧
    exec (.ori v) s = .next (accumulatorSet s (s.a ||| v) cy 2#16)

/-! ## Increment, rotates and pairs -/

/-- INR: one more, modulo 256, in the register or at the byte of memory named by H ++ L; S, Z and P describe the new
value and CY is kept; no other register, flag or byte changes (the spec's own decisions D2 and D8). -/
def Obligations.InrAddsOneAndKeepsCarry : Prop :=
  ∀ (s : State) (dst : Operand) (v : Byte), OperandIs s dst v →
    encode (.inr dst) = [0b00#2 ++ operandCode dst ++ 0b100#3] ∧
    (∀ r, dst = .reg r → ∃ t, exec (.inr dst) s = .next t ∧ OnlyRegister s t r (BitVec.ofNat 8 (v.toNat + 1)) ∧
      t.flags = flagsOf (BitVec.ofNat 8 (v.toNat + 1)) s.flags.cy ∧ t.sp = s.sp ∧ t.pc = s.pc + 1#16 ∧
      OutsideRegistersSame s t) ∧
    (dst = .m → s.cellKind (s.h ++ s.l) = .ram → ∃ t, exec (.inr dst) s = .next t ∧
      StoresByte s t (s.h ++ s.l) (BitVec.ofNat 8 (v.toNat + 1)) ∧
      t = { s with mem := t.mem, flags := flagsOf (BitVec.ofNat 8 (v.toNat + 1)) s.flags.cy, pc := s.pc + 1#16 })

/-- DCR: one less, modulo 256; otherwise as INR (the spec's own decisions D2 and D8). -/
def Obligations.DcrSubtractsOneAndKeepsCarry : Prop :=
  ∀ (s : State) (dst : Operand) (v : Byte), OperandIs s dst v →
    encode (.dcr dst) = [0b00#2 ++ operandCode dst ++ 0b101#3] ∧
    (∀ r, dst = .reg r → ∃ t, exec (.dcr dst) s = .next t ∧ OnlyRegister s t r (BitVec.ofInt 8 ((v.toNat : Int) - 1)) ∧
      t.flags = flagsOf (BitVec.ofInt 8 ((v.toNat : Int) - 1)) s.flags.cy ∧ t.sp = s.sp ∧ t.pc = s.pc + 1#16 ∧
      OutsideRegistersSame s t) ∧
    (dst = .m → s.cellKind (s.h ++ s.l) = .ram → ∃ t, exec (.dcr dst) s = .next t ∧
      StoresByte s t (s.h ++ s.l) (BitVec.ofInt 8 ((v.toNat : Int) - 1)) ∧
      t = { s with mem := t.mem, flags := flagsOf (BitVec.ofInt 8 ((v.toNat : Int) - 1)) s.flags.cy, pc := s.pc + 1#16 })

/-- RLC and RRC: A rotated on itself, CY a copy of the bit that went round; S, Z and P kept (the spec's own decision
D10, conflict C8). -/
def Obligations.RlcAndRrcRotateEightBits : Prop :=
  ∀ s : State,
    encode .rlc = [0x07] ∧
    exec .rlc s = .next { s with
      a := BitVec.ofNat 8 (2 * s.a.toNat + s.a.toNat / 128),
      flags := { s.flags with cy := decide (128 ≤ s.a.toNat) }, pc := s.pc + 1#16 } ∧
    encode .rrc = [0x0F] ∧
    exec .rrc s = .next { s with
      a := BitVec.ofNat 8 (s.a.toNat / 2 + 128 * (s.a.toNat % 2)),
      flags := { s.flags with cy := decide (s.a.toNat % 2 = 1) }, pc := s.pc + 1#16 }

/-- RAL and RAR: the nine bits CY ++ A rotated by one; S, Z and P kept (the spec's own decision D10). -/
def Obligations.RalAndRarRotateNineBits : Prop :=
  ∀ s : State,
    encode .ral = [0x17] ∧
    exec .ral s = .next { s with
      a := BitVec.ofNat 8 (2 * s.a.toNat + s.flags.cy.toNat),
      flags := { s.flags with cy := decide (128 ≤ s.a.toNat) }, pc := s.pc + 1#16 } ∧
    encode .rar = [0x1F] ∧
    exec .rar s = .next { s with
      a := BitVec.ofNat 8 (s.a.toNat / 2 + 128 * s.flags.cy.toNat),
      flags := { s.flags with cy := decide (s.a.toNat % 2 = 1) }, pc := s.pc + 1#16 }

/-- Nine RAL, or nine RAR, restore A and every flag; eight RLC, or eight RRC, restore A; only pc has moved (with CY the
bit that went round last). 41_alu_inc_rotate_pair.md section 2 and the spec's own decision D10. -/
def Obligations.RotatesComeRound : Prop :=
  ∀ s : State,
    execTimes 9 .ral s = .next { s with pc := s.pc + 9#16 } ∧
    execTimes 9 .rar s = .next { s with pc := s.pc + 9#16 } ∧
    execTimes 8 .rlc s = .next { s with
      flags := { s.flags with cy := decide (s.a.toNat % 2 = 1) }, pc := s.pc + 8#16 } ∧
    execTimes 8 .rrc s = .next { s with
      flags := { s.flags with cy := decide (128 ≤ s.a.toNat) }, pc := s.pc + 8#16 }

/-- CMA, STC and CMC: A complemented with no flag written; CY set; CY complemented. -/
def Obligations.CmaStcCmcResults : Prop :=
  ∀ s : State,
    encode .cma = [0x2F] ∧ exec .cma s = .next { s with a := BitVec.ofNat 8 (255 - s.a.toNat), pc := s.pc + 1#16 } ∧
    encode .stc = [0x37] ∧ exec .stc s = .next { s with flags := { s.flags with cy := true }, pc := s.pc + 1#16 } ∧
    encode .cmc = [0x3F] ∧
    exec .cmc s = .next { s with flags := { s.flags with cy := decide (s.flags.cy = false) }, pc := s.pc + 1#16 }

/-- DAD: the pair is added to HL modulo 2^16, CY is the carry out of bit 15, no other flag and no other register
changes (the spec's own decisions D2 and D9). -/
def Obligations.DadAddsToHl : Prop :=
  ∀ (s : State) (rp : Pair),
    encode (.dad rp) = [0b00#2 ++ pairCode rp ++ 0b1001#4] ∧
    ∃ t, exec (.dad rp) s = .next t ∧
      t.h ++ t.l = BitVec.ofNat 16 ((s.h ++ s.l).toNat + (pairIs s rp).toNat) ∧
      t = { s with
        h := t.h, l := t.l,
        flags := { s.flags with cy := decide (2 ^ 16 ≤ (s.h ++ s.l).toNat + (pairIs s rp).toNat) }, pc := s.pc + 1#16 }

/-- INX and DCX: one more or one less modulo 2^16 in the pair, the other pairs and A kept, no flag written (the
spec's own decisions D2 and D5). -/
def Obligations.InxAndDcxStepThePair : Prop :=
  ∀ (s : State) (rp : Pair),
    encode (.inx rp) = [0b00#2 ++ pairCode rp ++ 0b0011#4] ∧
    (∃ t, exec (.inx rp) s = .next t ∧ pairIs t rp = BitVec.ofNat 16 ((pairIs s rp).toNat + 1) ∧
      (∀ q, q ≠ rp → pairIs t q = pairIs s q) ∧ t.a = s.a ∧ t.flags = s.flags ∧ t.pc = s.pc + 1#16 ∧
      OutsideRegistersSame s t) ∧
    encode (.dcx rp) = [0b00#2 ++ pairCode rp ++ 0b1011#4] ∧
    (∃ t, exec (.dcx rp) s = .next t ∧ pairIs t rp = BitVec.ofInt 16 (((pairIs s rp).toNat : Int) - 1) ∧
      (∀ q, q ≠ rp → pairIs t q = pairIs s q) ∧ t.a = s.a ∧ t.flags = s.flags ∧ t.pc = s.pc + 1#16 ∧
      OutsideRegistersSame s t)

/-! ## Moves, loads and stores -/

/-- MOV reg,reg and MOV reg,M: one register takes the source's value; no flag, no other register and no byte of memory
changes. The address of M is H ++ L as it was before (the spec's own decision D2). -/
def Obligations.MovToRegisterCopiesTheSource : Prop :=
  ∀ (s : State) (r : Reg) (src : Operand) (v : Byte), OperandIs s src v →
    encode (.mov (.reg r) src) = [0b01#2 ++ operandCode (.reg r) ++ operandCode src] ∧
    ∃ t, exec (.mov (.reg r) src) s = .next t ∧ OnlyRegister s t r v ∧ t.flags = s.flags ∧ t.sp = s.sp ∧
      t.pc = s.pc + 1#16 ∧ OutsideRegistersSame s t

/-- MOV M,reg and MVI M,byte: the byte at H ++ L takes the value; every other byte, every register and every flag is
kept (the spec's own decision D2 for H ++ L). -/
def Obligations.MovAndMviStoreAtHl : Prop :=
  ∀ s : State, s.cellKind (s.h ++ s.l) = .ram →
    (∀ r, encode (.mov .m (.reg r)) = [0b01#2 ++ 0b110#3 ++ operandCode (.reg r)] ∧
      ∃ t, exec (.mov .m (.reg r)) s = .next t ∧ StoresByte s t (s.h ++ s.l) (s.reg r) ∧
        t = { s with mem := t.mem, pc := s.pc + 1#16 }) ∧
    (∀ v, encode (.mvi .m v) = [0x36, v] ∧
      ∃ t, exec (.mvi .m v) s = .next t ∧ StoresByte s t (s.h ++ s.l) v ∧
        t = { s with mem := t.mem, pc := s.pc + 2#16 })

/-- MVI reg,byte: one register takes the immediate byte, no flag is written. -/
def Obligations.MviLoadsTheRegister : Prop :=
  ∀ (s : State) (r : Reg) (v : Byte),
    encode (.mvi (.reg r) v) = [0b00#2 ++ operandCode (.reg r) ++ 0b110#3, v] ∧
    ∃ t, exec (.mvi (.reg r) v) s = .next t ∧ OnlyRegister s t r v ∧ t.flags = s.flags ∧ t.sp = s.sp ∧
      t.pc = s.pc + 2#16 ∧ OutsideRegistersSame s t

/-- LXI: the pair, or SP, takes the 16-bit operand, whose low byte comes first in the instruction (the spec's own
decisions D2 and D4); the other pairs, A and the flags are kept. -/
def Obligations.LxiLoadsThePair : Prop :=
  ∀ (s : State) (rp : Pair) (lo hi : Byte),
    encode (.lxi rp (hi ++ lo)) = [0b00#2 ++ pairCode rp ++ 0b0001#4, lo, hi] ∧
    ∃ t, exec (.lxi rp (hi ++ lo)) s = .next t ∧ pairIs t rp = hi ++ lo ∧ (∀ q, q ≠ rp → pairIs t q = pairIs s q) ∧
      t.a = s.a ∧ t.flags = s.flags ∧ t.pc = s.pc + 3#16 ∧ OutsideRegistersSame s t

/-- LDA and STA: A from, or to, the byte at the address in the instruction, whose low byte lies first (the spec's own
decision D4); nothing else. -/
def Obligations.LdaAndStaUseTheAddress : Prop :=
  ∀ (s : State) (addr : Word),
    encode (.lda addr) = [0x3A, addr.extractLsb' 0 8, addr.extractLsb' 8 8] ∧
    (∀ v, memRead s addr = .ok v → exec (.lda addr) s = .next { s with a := v, pc := s.pc + 3#16 }) ∧
    encode (.sta addr) = [0x32, addr.extractLsb' 0 8, addr.extractLsb' 8 8] ∧
    (s.cellKind addr = .ram → ∃ t, exec (.sta addr) s = .next t ∧ StoresByte s t addr s.a ∧
      t = { s with mem := t.mem, pc := s.pc + 3#16 })

/-! ## Jumps -/

/-- The nine jumps: taken exactly when the flag selected has the value the mnemonic asks for, and nothing but pc
changes. The two operand bytes lie low byte first (the spec's own decision D4). -/
def Obligations.JumpsGoWhereTheFlagSays : Prop :=
  ∀ (s : State) (w : Word),
    JumpsWhen s (.jmp w) 0xC3 true w ∧
    JumpsWhen s (.jnz w) 0xC2 (decide (s.flags.z = false)) w ∧ JumpsWhen s (.jz w) 0xCA (decide (s.flags.z = true)) w ∧
    JumpsWhen s (.jnc w) 0xD2 (decide (s.flags.cy = false)) w ∧ JumpsWhen s (.jc w) 0xDA (decide (s.flags.cy = true)) w ∧
    JumpsWhen s (.jpo w) 0xE2 (decide (s.flags.p = false)) w ∧ JumpsWhen s (.jpe w) 0xEA (decide (s.flags.p = true)) w ∧
    JumpsWhen s (.jp w) 0xF2 (decide (s.flags.s = false)) w ∧ JumpsWhen s (.jm w) 0xFA (decide (s.flags.s = true)) w

/-! ## Stack -/

/-- POP under STACK_OPCODE_SENSE = source: the pair goes to the two bytes below SP, high byte at SP-1, SP goes down by 2;
for PSW the low byte is F with zeros at its constant bits (the spec's own decisions D11 and D14). -/
def Obligations.PopStoresThePair : Prop :=
  ∀ (s : State) (rp : StackPair), s.cfg.stackSense = .source → s.cellKind (s.sp - 1#16) = .ram →
    s.cellKind (s.sp - 2#16) = .ram →
    ∃ t, exec (.pop rp) s = .next t ∧
      StoresWord s t (s.sp - 2#16) (stackPairIs s rp) ∧
      t = { s with mem := t.mem, sp := s.sp - 2#16, pc := s.pc + 1#16 }

/-- PUSH under STACK_OPCODE_SENSE = source: the pair takes the two bytes at SP, low byte first, SP goes up by 2; PSW
takes A and the four flags, the other bits of F are dropped (the spec's own decisions D11 and D14). -/
def Obligations.PushLoadsThePair : Prop :=
  ∀ (s : State) (rp : StackPair) (lo hi : Byte), s.cfg.stackSense = .source → memRead s s.sp = .ok lo →
    memRead s (s.sp + 1#16) = .ok hi →
    exec (.push rp) s = .next (match rp with
      | .bc => { s with b := hi, c := lo, sp := s.sp + 2#16, pc := s.pc + 1#16 }
      | .de => { s with d := hi, e := lo, sp := s.sp + 2#16, pc := s.pc + 1#16 }
      | .hl => { s with h := hi, l := lo, sp := s.sp + 2#16, pc := s.pc + 1#16 }
      | .psw => { s with
          a := hi,
          flags := { s := decide (128 ≤ lo.toNat), z := decide (64 ≤ lo.toNat % 128),
                     p := decide (4 ≤ lo.toNat % 8), cy := decide (lo.toNat % 2 = 1) },
          sp := s.sp + 2#16, pc := s.pc + 1#16 })

/-- STACK_OPCODE_SENSE = intel8085 exchanges POP and PUSH: each does what the other does under source, and every other
instruction does the same under both, CALL and RET included (44_stack.md section 1, the spec's own decision D11; the
parameter as a field of the state is log 4, the exchange log 11). -/
def Obligations.StackSenseExchangesPopAndPush : Prop :=
  ∀ s : State, s.cfg.stackSense = .source →
    let intel (u : State) : State := { u with cfg := { u.cfg with stackSense := .intel8085 } }
    (∀ rp, exec (.pop rp) (intel s) = onNext intel (exec (.push rp) s) ∧
      exec (.push rp) (intel s) = onNext intel (exec (.pop rp) s)) ∧
    ∀ i, (∀ rp, i ≠ .pop rp ∧ i ≠ .push rp) → exec i (intel s) = onNext intel (exec i s)

/-- CALL and the eight conditional calls: taken exactly when the flag says so, saving the address of the next
instruction below SP; not taken, SP and memory are not touched (the spec's own decision D13 for the address saved). -/
def Obligations.CallsSaveTheNextAddress : Prop :=
  ∀ (s : State) (w : Word),
    CallsWhen s (.call w) 0xCD true w ∧
    CallsWhen s (.cnz w) 0xC4 (decide (s.flags.z = false)) w ∧ CallsWhen s (.cz w) 0xCC (decide (s.flags.z = true)) w ∧
    CallsWhen s (.cnc w) 0xD4 (decide (s.flags.cy = false)) w ∧ CallsWhen s (.cc w) 0xDC (decide (s.flags.cy = true)) w ∧
    CallsWhen s (.cpo w) 0xE4 (decide (s.flags.p = false)) w ∧ CallsWhen s (.cpe w) 0xEC (decide (s.flags.p = true)) w ∧
    CallsWhen s (.cp w) 0xF4 (decide (s.flags.s = false)) w ∧ CallsWhen s (.cm w) 0xFC (decide (s.flags.s = true)) w

/-- RET and the eight conditional returns: taken exactly when the flag says so, to the word at SP, low byte first; not
taken, SP is kept and no byte of the stack is read (the spec's own decision D12, conflict C1). -/
def Obligations.ReturnsLoadThePc : Prop :=
  ∀ s : State,
    ReturnsWhen s .ret 0xC9 true ∧
    ReturnsWhen s .rnz 0xC0 (decide (s.flags.z = false)) ∧ ReturnsWhen s .rz 0xC8 (decide (s.flags.z = true)) ∧
    ReturnsWhen s .rnc 0xD0 (decide (s.flags.cy = false)) ∧ ReturnsWhen s .rc 0xD8 (decide (s.flags.cy = true)) ∧
    ReturnsWhen s .rpo 0xE0 (decide (s.flags.p = false)) ∧ ReturnsWhen s .rpe 0xE8 (decide (s.flags.p = true)) ∧
    ReturnsWhen s .rp 0xF0 (decide (s.flags.s = false)) ∧ ReturnsWhen s .rm 0xF8 (decide (s.flags.s = true))

/-- A return straight after a call resumes after the call, with SP and every register and flag as they were, memory
changed below SP only (44_stack.md section 1; the spec's own decisions D12 and D13). -/
def Obligations.ReturnUndoesCall : Prop :=
  ∀ (s : State) (w : Word), s.cellKind (s.sp - 1#16) = .ram → s.cellKind (s.sp - 2#16) = .ram →
    ∃ t u, exec (.call w) s = .next t ∧ t.pc = w ∧ exec .ret t = .next u ∧
      u = { s with mem := t.mem, pc := s.pc + 3#16 } ∧
      ∀ x, x ≠ s.sp - 1#16 → x ≠ s.sp - 2#16 → memRead u x = memRead s x

/-- A stack load straight after a stack store of the same pair, whatever A, the flags or the pair became in between,
restores the pair (PSW included) and SP (44_stack.md section 1; the spec's own decisions D11 and D14). -/
def Obligations.PushAfterPopRestoresThePair : Prop :=
  ∀ (s t v : State) (rp : StackPair), s.cfg.stackSense = .source → exec (.pop rp) s = .next t →
    v.mem = t.mem → v.cfg = t.cfg → v.sp = t.sp →
    ∃ u, exec (.push rp) v = .next u ∧ stackPairIs u rp = stackPairIs s rp ∧ u.sp = s.sp ∧ u.pc = v.pc + 1#16 ∧
      (∀ q, inStackPair q rp = false → u.reg q = v.reg q) ∧ (rp ≠ .psw → u.flags = v.flags) ∧
      OutsideRegistersSame v u

/-- A stack store writes SP-1 first: of two cells that cannot be written, the one at SP-1 is the fault's address, and
nothing is written when the second faults, the fault carrying no state. It holds of every instruction that stores on the
stack: the stack store of a pair under either STACK_OPCODE_SENSE, CALL, and the eight conditional calls when taken (the
spec's own decisions D11, D17 and D21). -/
def Obligations.StackStoreFaultsInOrder : Prop :=
  ∀ (s : State) (i : Instr), stackStores s i = true →
    (s.cellKind (s.sp - 1#16) ≠ .ram → exec i s = .fault (.unmappedAccess (s.sp - 1#16))) ∧
    (s.cellKind (s.sp - 1#16) = .ram → s.cellKind (s.sp - 2#16) ≠ .ram →
      exec i s = .fault (.unmappedAccess (s.sp - 2#16)))

/-- A stack load reads SP first, then SP+1: the first read that faults is the fault. It holds of every instruction that
loads from the stack: the stack load of a pair under either STACK_OPCODE_SENSE, RET, and the eight conditional returns
when taken (the spec's own decisions D11, D17 and D21). -/
def Obligations.StackLoadFaultsInOrder : Prop :=
  ∀ (s : State) (i : Instr) (f : Fault), stackLoads s i = true →
    (memRead s s.sp = .error f → exec i s = .fault f) ∧
    (∀ lo, memRead s s.sp = .ok lo → memRead s (s.sp + 1#16) = .error f → exec i s = .fault f)

/-! ## HLT, ports and NOP -/

/-- HLT sets `halted` and moves pc on, nothing else, and the step after it changes nothing (the spec's own decision
D19; log 8). -/
def Obligations.HltEndsTheRun : Prop :=
  ∀ s : State, exec .hlt s = .next { s with halted := true, pc := s.pc + 1#16 } ∧
    ∀ t, exec .hlt s = .next t → step t = .next t

/-- IN puts the environment's byte in A, OUT leaves A, each adds its event to the trace, NOP moves pc only; no flag is
written. The byte IN reads is a free value (log 6; the spec's own decision D18): this holds whatever it is. -/
def Obligations.InOutNopResults : Prop :=
  ∀ (s : State) (p : Byte),
    encode (.inPort p) = [0xDB, p] ∧
    (∃ v, v = Config.portIn s.tick s.trace p ∧
      exec (.inPort p) s = .next { s with a := v, trace := s.trace ++ [.input p v], pc := s.pc + 2#16 }) ∧
    encode (.outPort p) = [0xD3, p] ∧
    exec (.outPort p) s = .next { s with trace := s.trace ++ [.output p s.a], pc := s.pc + 2#16 } ∧
    encode .nop = [0x00] ∧ exec .nop s = .next { s with pc := s.pc + 1#16 }

/-! ## Reset -/

/-- After reset pc is 0x0000, the machine runs (the spec's own decision D23; log 20), and every cell reads as unset: no
program stands in memory until the environment loads one (the spec's own decision D31; logs 3 and 21). Reset by the
environment, of any state, leaves pc 0x0000, the machine running, and memory, trace and parameters as they were, so that
the first instruction run is the one at address 0x0000 (D23; log 20). Nothing is claimed of the registers (log 1). -/
def Obligations.EnvironmentResetStartsAtZero : Prop :=
  (State.reset.pc = 0 ∧ State.reset.halted = false ∧ ∀ addr, memRead State.reset addr = .error (.unsetRead addr)) ∧
  ∀ s : State,
    s.environmentReset.pc = 0 ∧ s.environmentReset.halted = false ∧ s.environmentReset.mem = s.mem ∧
    s.environmentReset.cfg = s.cfg ∧ s.environmentReset.trace = s.trace ∧
    ∀ i : Instr, i.wellFormed = true → BytesAt s 0 (encode i) →
      step s.environmentReset = stepAnswer (exec i s.environmentReset)
end

