-- ==== Sys2Proof/Laws/Decode.lean ====
section
/-! SUPPORT. The small lemmas of the decoder's and the encoder's tables. -/

namespace Sys2Proof

@[simp] theorem operandOfCode_operandCode (o : Operand) : operandOfCode (operandCode o) = o := by
  cases o with
  | reg r => cases r <;> rfl
  | m => rfl

theorem operandCode_operandOfCode : ∀ x : BitVec 3, operandCode (operandOfCode x) = x := by decide

@[simp] theorem pairOfCode_pairCode (p : Pair) : pairOfCode (pairCode p) = p := by cases p <;> rfl

theorem pairCode_pairOfCode : ∀ x : BitVec 2, pairCode (pairOfCode x) = x := by decide

@[simp] theorem stackPairOfCode_stackPairCode (p : StackPair) : stackPairOfCode (stackPairCode p) = p := by
  cases p <;> rfl

theorem stackPairCode_stackPairOfCode : ∀ x : BitVec 2, stackPairCode (stackPairOfCode x) = x := by decide

/-- A 16-bit operand put together again from its two bytes (30_encoding.md R66). -/
@[simp] theorem imm16_bytes (w : Word) : imm16 (w.extractLsb' 0 8) (w.extractLsb' 8 8) = w := by
  apply BitVec.eq_of_getLsbD_eq
  intro i hi
  simp only [imm16, BitVec.getLsbD_append, BitVec.getLsbD_extractLsb']
  split
  · simp [*]
  · rename_i h
    have h1 : i - 8 < 8 := by omega
    have h2 : 8 + (i - 8) = i := by omega
    simp [h1, h2]

end Sys2Proof
end

