-- ==== Sys2Proof/Laws/State.lean ====
section
/-! SUPPORT. One lemma per field per update of the state, so that no proof unfolds a record update. -/

namespace Sys2Proof.Machine

/-! ### `State.advance` -/

@[simp] theorem State.advance_a (s : State) (n : Word) : (s.advance n).a = s.a := rfl
@[simp] theorem State.advance_b (s : State) (n : Word) : (s.advance n).b = s.b := rfl
@[simp] theorem State.advance_c (s : State) (n : Word) : (s.advance n).c = s.c := rfl
@[simp] theorem State.advance_d (s : State) (n : Word) : (s.advance n).d = s.d := rfl
@[simp] theorem State.advance_e (s : State) (n : Word) : (s.advance n).e = s.e := rfl
@[simp] theorem State.advance_h (s : State) (n : Word) : (s.advance n).h = s.h := rfl
@[simp] theorem State.advance_l (s : State) (n : Word) : (s.advance n).l = s.l := rfl
@[simp] theorem State.advance_flags (s : State) (n : Word) : (s.advance n).flags = s.flags := rfl
@[simp] theorem State.advance_sp (s : State) (n : Word) : (s.advance n).sp = s.sp := rfl
@[simp] theorem State.advance_pc (s : State) (n : Word) : (s.advance n).pc = s.pc + n := rfl
@[simp] theorem State.advance_mem (s : State) (n : Word) : (s.advance n).mem = s.mem := rfl
@[simp] theorem State.advance_halted (s : State) (n : Word) : (s.advance n).halted = s.halted := rfl
@[simp] theorem State.advance_trace (s : State) (n : Word) : (s.advance n).trace = s.trace := rfl
@[simp] theorem State.advance_cfg (s : State) (n : Word) : (s.advance n).cfg = s.cfg := rfl
@[simp] theorem State.advance_tick (s : State) (n : Word) : (s.advance n).tick = s.tick := rfl

/-! ### `State.goto` -/

@[simp] theorem State.goto_a (s : State) (w : Word) : (s.goto w).a = s.a := rfl
@[simp] theorem State.goto_b (s : State) (w : Word) : (s.goto w).b = s.b := rfl
@[simp] theorem State.goto_c (s : State) (w : Word) : (s.goto w).c = s.c := rfl
@[simp] theorem State.goto_d (s : State) (w : Word) : (s.goto w).d = s.d := rfl
@[simp] theorem State.goto_e (s : State) (w : Word) : (s.goto w).e = s.e := rfl
@[simp] theorem State.goto_h (s : State) (w : Word) : (s.goto w).h = s.h := rfl
@[simp] theorem State.goto_l (s : State) (w : Word) : (s.goto w).l = s.l := rfl
@[simp] theorem State.goto_flags (s : State) (w : Word) : (s.goto w).flags = s.flags := rfl
@[simp] theorem State.goto_sp (s : State) (w : Word) : (s.goto w).sp = s.sp := rfl
@[simp] theorem State.goto_pc (s : State) (w : Word) : (s.goto w).pc = w := rfl
@[simp] theorem State.goto_mem (s : State) (w : Word) : (s.goto w).mem = s.mem := rfl
@[simp] theorem State.goto_halted (s : State) (w : Word) : (s.goto w).halted = s.halted := rfl
@[simp] theorem State.goto_trace (s : State) (w : Word) : (s.goto w).trace = s.trace := rfl
@[simp] theorem State.goto_cfg (s : State) (w : Word) : (s.goto w).cfg = s.cfg := rfl
@[simp] theorem State.goto_tick (s : State) (w : Word) : (s.goto w).tick = s.tick := rfl

/-! ### `State.record` -/

@[simp] theorem State.record_a (s : State) (ev : PortEvent) : (s.record ev).a = s.a := rfl
@[simp] theorem State.record_b (s : State) (ev : PortEvent) : (s.record ev).b = s.b := rfl
@[simp] theorem State.record_c (s : State) (ev : PortEvent) : (s.record ev).c = s.c := rfl
@[simp] theorem State.record_d (s : State) (ev : PortEvent) : (s.record ev).d = s.d := rfl
@[simp] theorem State.record_e (s : State) (ev : PortEvent) : (s.record ev).e = s.e := rfl
@[simp] theorem State.record_h (s : State) (ev : PortEvent) : (s.record ev).h = s.h := rfl
@[simp] theorem State.record_l (s : State) (ev : PortEvent) : (s.record ev).l = s.l := rfl
@[simp] theorem State.record_flags (s : State) (ev : PortEvent) : (s.record ev).flags = s.flags := rfl
@[simp] theorem State.record_sp (s : State) (ev : PortEvent) : (s.record ev).sp = s.sp := rfl
@[simp] theorem State.record_pc (s : State) (ev : PortEvent) : (s.record ev).pc = s.pc := rfl
@[simp] theorem State.record_mem (s : State) (ev : PortEvent) : (s.record ev).mem = s.mem := rfl
@[simp] theorem State.record_halted (s : State) (ev : PortEvent) : (s.record ev).halted = s.halted := rfl
@[simp] theorem State.record_trace (s : State) (ev : PortEvent) : (s.record ev).trace = s.trace ++ [ev] := rfl
@[simp] theorem State.record_cfg (s : State) (ev : PortEvent) : (s.record ev).cfg = s.cfg := rfl
@[simp] theorem State.record_tick (s : State) (ev : PortEvent) : (s.record ev).tick = s.tick := rfl

/-! ### `State.nextTick` -/

@[simp] theorem State.nextTick_a (s : State) : (s.nextTick).a = s.a := rfl
@[simp] theorem State.nextTick_b (s : State) : (s.nextTick).b = s.b := rfl
@[simp] theorem State.nextTick_c (s : State) : (s.nextTick).c = s.c := rfl
@[simp] theorem State.nextTick_d (s : State) : (s.nextTick).d = s.d := rfl
@[simp] theorem State.nextTick_e (s : State) : (s.nextTick).e = s.e := rfl
@[simp] theorem State.nextTick_h (s : State) : (s.nextTick).h = s.h := rfl
@[simp] theorem State.nextTick_l (s : State) : (s.nextTick).l = s.l := rfl
@[simp] theorem State.nextTick_flags (s : State) : (s.nextTick).flags = s.flags := rfl
@[simp] theorem State.nextTick_sp (s : State) : (s.nextTick).sp = s.sp := rfl
@[simp] theorem State.nextTick_pc (s : State) : (s.nextTick).pc = s.pc := rfl
@[simp] theorem State.nextTick_mem (s : State) : (s.nextTick).mem = s.mem := rfl
@[simp] theorem State.nextTick_halted (s : State) : (s.nextTick).halted = s.halted := rfl
@[simp] theorem State.nextTick_trace (s : State) : (s.nextTick).trace = s.trace := rfl
@[simp] theorem State.nextTick_cfg (s : State) : (s.nextTick).cfg = s.cfg := rfl
@[simp] theorem State.nextTick_tick (s : State) : (s.nextTick).tick = s.tick + 1 := rfl

/-! ### `State.environmentReset` -/

@[simp] theorem State.environmentReset_a (s : State) : (s.environmentReset).a = 0x00#8 := rfl
@[simp] theorem State.environmentReset_b (s : State) : (s.environmentReset).b = 0x00#8 := rfl
@[simp] theorem State.environmentReset_c (s : State) : (s.environmentReset).c = 0x00#8 := rfl
@[simp] theorem State.environmentReset_d (s : State) : (s.environmentReset).d = 0x00#8 := rfl
@[simp] theorem State.environmentReset_e (s : State) : (s.environmentReset).e = 0x00#8 := rfl
@[simp] theorem State.environmentReset_h (s : State) : (s.environmentReset).h = 0x00#8 := rfl
@[simp] theorem State.environmentReset_l (s : State) : (s.environmentReset).l = 0x00#8 := rfl
@[simp] theorem State.environmentReset_flags (s : State) : (s.environmentReset).flags = { s := false, z := false, p := false, cy := false } := rfl
@[simp] theorem State.environmentReset_sp (s : State) : (s.environmentReset).sp = 0x0000#16 := rfl
@[simp] theorem State.environmentReset_pc (s : State) : (s.environmentReset).pc = Config.resetPc := rfl
@[simp] theorem State.environmentReset_mem (s : State) : (s.environmentReset).mem = s.mem := rfl
@[simp] theorem State.environmentReset_halted (s : State) : (s.environmentReset).halted = false := rfl
@[simp] theorem State.environmentReset_trace (s : State) : (s.environmentReset).trace = s.trace := rfl
@[simp] theorem State.environmentReset_cfg (s : State) : (s.environmentReset).cfg = s.cfg := rfl
@[simp] theorem State.environmentReset_tick (s : State) : (s.environmentReset).tick = s.tick := rfl

/-! ### `setAccumulator` -/

@[simp] theorem setAccumulator_a (s : State) (r : Byte × Bool) : (setAccumulator s r).a = r.1 := rfl
@[simp] theorem setAccumulator_b (s : State) (r : Byte × Bool) : (setAccumulator s r).b = s.b := rfl
@[simp] theorem setAccumulator_c (s : State) (r : Byte × Bool) : (setAccumulator s r).c = s.c := rfl
@[simp] theorem setAccumulator_d (s : State) (r : Byte × Bool) : (setAccumulator s r).d = s.d := rfl
@[simp] theorem setAccumulator_e (s : State) (r : Byte × Bool) : (setAccumulator s r).e = s.e := rfl
@[simp] theorem setAccumulator_h (s : State) (r : Byte × Bool) : (setAccumulator s r).h = s.h := rfl
@[simp] theorem setAccumulator_l (s : State) (r : Byte × Bool) : (setAccumulator s r).l = s.l := rfl
@[simp] theorem setAccumulator_flags (s : State) (r : Byte × Bool) : (setAccumulator s r).flags = (s.flags.setSzp r.1).setCarry r.2 := rfl
@[simp] theorem setAccumulator_sp (s : State) (r : Byte × Bool) : (setAccumulator s r).sp = s.sp := rfl
@[simp] theorem setAccumulator_pc (s : State) (r : Byte × Bool) : (setAccumulator s r).pc = s.pc := rfl
@[simp] theorem setAccumulator_mem (s : State) (r : Byte × Bool) : (setAccumulator s r).mem = s.mem := rfl
@[simp] theorem setAccumulator_halted (s : State) (r : Byte × Bool) : (setAccumulator s r).halted = s.halted := rfl
@[simp] theorem setAccumulator_trace (s : State) (r : Byte × Bool) : (setAccumulator s r).trace = s.trace := rfl
@[simp] theorem setAccumulator_cfg (s : State) (r : Byte × Bool) : (setAccumulator s r).cfg = s.cfg := rfl
@[simp] theorem setAccumulator_tick (s : State) (r : Byte × Bool) : (setAccumulator s r).tick = s.tick := rfl

/-! ### `setCompareFlags` -/

@[simp] theorem setCompareFlags_a (s : State) (r : Byte × Bool) : (setCompareFlags s r).a = s.a := rfl
@[simp] theorem setCompareFlags_b (s : State) (r : Byte × Bool) : (setCompareFlags s r).b = s.b := rfl
@[simp] theorem setCompareFlags_c (s : State) (r : Byte × Bool) : (setCompareFlags s r).c = s.c := rfl
@[simp] theorem setCompareFlags_d (s : State) (r : Byte × Bool) : (setCompareFlags s r).d = s.d := rfl
@[simp] theorem setCompareFlags_e (s : State) (r : Byte × Bool) : (setCompareFlags s r).e = s.e := rfl
@[simp] theorem setCompareFlags_h (s : State) (r : Byte × Bool) : (setCompareFlags s r).h = s.h := rfl
@[simp] theorem setCompareFlags_l (s : State) (r : Byte × Bool) : (setCompareFlags s r).l = s.l := rfl
@[simp] theorem setCompareFlags_flags (s : State) (r : Byte × Bool) : (setCompareFlags s r).flags = (s.flags.setSzp r.1).setCarry r.2 := rfl
@[simp] theorem setCompareFlags_sp (s : State) (r : Byte × Bool) : (setCompareFlags s r).sp = s.sp := rfl
@[simp] theorem setCompareFlags_pc (s : State) (r : Byte × Bool) : (setCompareFlags s r).pc = s.pc := rfl
@[simp] theorem setCompareFlags_mem (s : State) (r : Byte × Bool) : (setCompareFlags s r).mem = s.mem := rfl
@[simp] theorem setCompareFlags_halted (s : State) (r : Byte × Bool) : (setCompareFlags s r).halted = s.halted := rfl
@[simp] theorem setCompareFlags_trace (s : State) (r : Byte × Bool) : (setCompareFlags s r).trace = s.trace := rfl
@[simp] theorem setCompareFlags_cfg (s : State) (r : Byte × Bool) : (setCompareFlags s r).cfg = s.cfg := rfl
@[simp] theorem setCompareFlags_tick (s : State) (r : Byte × Bool) : (setCompareFlags s r).tick = s.tick := rfl

/-! ### `State.setReg`: outside the registers -/

@[simp] theorem State.setReg_flags (s : State) (r : Reg) (v : Byte) : (s.setReg r v).flags = s.flags := by cases r <;> rfl
@[simp] theorem State.setReg_sp (s : State) (r : Reg) (v : Byte) : (s.setReg r v).sp = s.sp := by cases r <;> rfl
@[simp] theorem State.setReg_pc (s : State) (r : Reg) (v : Byte) : (s.setReg r v).pc = s.pc := by cases r <;> rfl
@[simp] theorem State.setReg_mem (s : State) (r : Reg) (v : Byte) : (s.setReg r v).mem = s.mem := by cases r <;> rfl
@[simp] theorem State.setReg_halted (s : State) (r : Reg) (v : Byte) : (s.setReg r v).halted = s.halted := by cases r <;> rfl
@[simp] theorem State.setReg_trace (s : State) (r : Reg) (v : Byte) : (s.setReg r v).trace = s.trace := by cases r <;> rfl
@[simp] theorem State.setReg_cfg (s : State) (r : Reg) (v : Byte) : (s.setReg r v).cfg = s.cfg := by cases r <;> rfl
@[simp] theorem State.setReg_tick (s : State) (r : Reg) (v : Byte) : (s.setReg r v).tick = s.tick := by cases r <;> rfl

/-! ### `State.setPair`: outside the pairs -/

@[simp] theorem State.setPair_a (s : State) (p : Pair) (w : Word) : (s.setPair p w).a = s.a := by cases p <;> rfl
@[simp] theorem State.setPair_flags (s : State) (p : Pair) (w : Word) : (s.setPair p w).flags = s.flags := by cases p <;> rfl
@[simp] theorem State.setPair_pc (s : State) (p : Pair) (w : Word) : (s.setPair p w).pc = s.pc := by cases p <;> rfl
@[simp] theorem State.setPair_mem (s : State) (p : Pair) (w : Word) : (s.setPair p w).mem = s.mem := by cases p <;> rfl
@[simp] theorem State.setPair_halted (s : State) (p : Pair) (w : Word) : (s.setPair p w).halted = s.halted := by cases p <;> rfl
@[simp] theorem State.setPair_trace (s : State) (p : Pair) (w : Word) : (s.setPair p w).trace = s.trace := by cases p <;> rfl
@[simp] theorem State.setPair_cfg (s : State) (p : Pair) (w : Word) : (s.setPair p w).cfg = s.cfg := by cases p <;> rfl
@[simp] theorem State.setPair_tick (s : State) (p : Pair) (w : Word) : (s.setPair p w).tick = s.tick := by cases p <;> rfl

/-! ### `State.setStackPair`: outside the pairs -/

@[simp] theorem State.setStackPair_sp (s : State) (p : StackPair) (w : Word) : (s.setStackPair p w).sp = s.sp := by cases p <;> rfl
@[simp] theorem State.setStackPair_pc (s : State) (p : StackPair) (w : Word) : (s.setStackPair p w).pc = s.pc := by cases p <;> rfl
@[simp] theorem State.setStackPair_mem (s : State) (p : StackPair) (w : Word) : (s.setStackPair p w).mem = s.mem := by cases p <;> rfl
@[simp] theorem State.setStackPair_halted (s : State) (p : StackPair) (w : Word) : (s.setStackPair p w).halted = s.halted := by cases p <;> rfl
@[simp] theorem State.setStackPair_trace (s : State) (p : StackPair) (w : Word) : (s.setStackPair p w).trace = s.trace := by cases p <;> rfl
@[simp] theorem State.setStackPair_cfg (s : State) (p : StackPair) (w : Word) : (s.setStackPair p w).cfg = s.cfg := by cases p <;> rfl
@[simp] theorem State.setStackPair_tick (s : State) (p : StackPair) (w : Word) : (s.setStackPair p w).tick = s.tick := by cases p <;> rfl

/-! ### Registers by name -/

theorem State.reg_setReg (s : State) (r q : Reg) (v : Byte) :
    (s.setReg r v).reg q = if q = r then v else s.reg q := by
  cases r <;> cases q <;> rfl

@[simp] theorem State.reg_setReg_same (s : State) (r : Reg) (v : Byte) : (s.setReg r v).reg r = v := by
  cases r <;> rfl

@[simp] theorem State.reg_advance (s : State) (n : Word) (q : Reg) : (s.advance n).reg q = s.reg q := by
  cases q <;> rfl

@[simp] theorem State.reg_goto (s : State) (w : Word) (q : Reg) : (s.goto w).reg q = s.reg q := by
  cases q <;> rfl

@[simp] theorem State.reg_record (s : State) (ev : PortEvent) (q : Reg) : (s.record ev).reg q = s.reg q := by
  cases q <;> rfl

@[simp] theorem State.reg_nextTick (s : State) (q : Reg) : (s.nextTick).reg q = s.reg q := by
  cases q <;> rfl

/-! ### Flags -/

@[simp] theorem Flags.setSzp_s (f : Flags) (r : Byte) : (f.setSzp r).s = r.getLsbD 7 := rfl
@[simp] theorem Flags.setSzp_z (f : Flags) (r : Byte) : (f.setSzp r).z = (r == 0x00#8) := rfl
@[simp] theorem Flags.setSzp_p (f : Flags) (r : Byte) : (f.setSzp r).p = (popcount r % 2 == 0) := rfl
@[simp] theorem Flags.setSzp_cy (f : Flags) (r : Byte) : (f.setSzp r).cy = f.cy := rfl

@[simp] theorem Flags.setCarry_s (f : Flags) (x : Bool) : (f.setCarry x).s = f.s := rfl
@[simp] theorem Flags.setCarry_z (f : Flags) (x : Bool) : (f.setCarry x).z = f.z := rfl
@[simp] theorem Flags.setCarry_p (f : Flags) (x : Bool) : (f.setCarry x).p = f.p := rfl
@[simp] theorem Flags.setCarry_cy (f : Flags) (x : Bool) : (f.setCarry x).cy = x := rfl

/-- Writing F back what was read from it restores the flags (10_state.md R17). -/
@[simp] theorem Flags.ofByte_toByte (f : Flags) : Flags.ofByte f.toByte = f := by
  obtain ⟨s, z, p, cy⟩ := f
  cases s <;> cases z <;> cases p <;> cases cy <;> decide

/-- The constant bits of F read as zero (10_state.md R17). -/
theorem Flags.toByte_constant_bits (f : Flags) :
    f.toByte.getLsbD 5 = false ∧ f.toByte.getLsbD 4 = false ∧ f.toByte.getLsbD 3 = false ∧
      f.toByte.getLsbD 1 = false := by
  obtain ⟨s, z, p, cy⟩ := f
  cases s <;> cases z <;> cases p <;> cases cy <;> decide

/-! ### Bytes of a word -/

@[simp] theorem hi8_append (h l : Byte) : hi8 (h ++ l) = h := by
  apply BitVec.eq_of_getLsbD_eq
  intro i hi
  have e : (h ++ l).getLsbD (8 + i) = h.getLsbD i := by
    rw [BitVec.getLsbD_append]; simp
  simpa [hi8, hi] using e

@[simp] theorem lo8_append (h l : Byte) : lo8 (h ++ l) = l := by
  apply BitVec.eq_of_getLsbD_eq
  intro i hi
  have e : (h ++ l).getLsbD i = l.getLsbD i := by
    rw [BitVec.getLsbD_append]; simp [hi]
  simpa [lo8, hi] using e

@[simp] theorem hi8_append_lo8 (w : Word) : hi8 w ++ lo8 w = w := by
  apply BitVec.eq_of_getLsbD_eq
  intro i hi
  simp only [hi8, lo8, BitVec.getLsbD_append, BitVec.getLsbD_extractLsb']
  split
  · simp [*]
  · rename_i h
    have h1 : i - 8 < 8 := by omega
    have h2 : 8 + (i - 8) = i := by omega
    simp [h1, h2]

end Sys2Proof.Machine
end

