-- ==== Sys2Proof/Laws/Memory.lean ====
section
/-! SUPPORT. The laws of memory: read after write, every operation keeps the canonical form, and what each
access can answer. -/

namespace Sys2Proof.Machine

/-! ### Memory as data -/

theorem Memory.lookup_insert (m : Memory) (a x : Nat) (v : Byte) :
    Memory.lookup (Memory.insert m a v) x = if x = a then some v else Memory.lookup m x := by
  induction m with
  | nil => simp [Memory.insert, Memory.lookup, eq_comm]
  | cons c rest ih =>
    obtain ⟨k, w⟩ := c
    simp only [Memory.insert]
    split
    · simp [Memory.lookup, eq_comm]
    · split
      · subst a
        by_cases h : x = k <;> simp [Memory.lookup, h, eq_comm]
      · simp only [Memory.lookup, ih]
        by_cases h : k = x
        · subst h; simp; omega
        · simp [h]

theorem Memory.mem_insert (m : Memory) (a : Nat) (v : Byte) (c : Host.Cell)
    (h : c ∈ Memory.insert m a v) : c = (a, v) ∨ c ∈ m := by
  induction m with
  | nil => simpa [Memory.insert] using h
  | cons k rest ih =>
    simp only [Memory.insert] at h
    split at h
    · simpa using h
    · split at h
      · rcases List.mem_cons.mp h with h | h <;> simp [h]
      · rcases List.mem_cons.mp h with h | h
        · simp [h]
        · rcases ih h with h | h <;> simp [h]

/-- A write at an address of the space keeps the canonical form. -/
theorem Memory.insert_wf (m : Memory) (a : Nat) (v : Byte) (ha : a < 2 ^ 16) (hm : Memory.wf m) :
    Memory.wf (Memory.insert m a v) := by
  refine ⟨?_, fun c hc => ?_⟩
  · obtain ⟨hm, -⟩ := hm
    induction m with
    | nil => simp [Memory.insert]
    | cons k rest ih =>
      simp only [List.map_cons, List.pairwise_cons] at hm
      obtain ⟨hk, hr⟩ := hm
      simp only [Memory.insert]
      split
      · rename_i hlt
        simp only [List.map_cons, List.pairwise_cons]
        refine ⟨fun y hy => ?_, hk, hr⟩
        rcases List.mem_cons.mp hy with rfl | hy
        · exact hlt
        · exact Nat.lt_trans hlt (hk y hy)
      · split
        · rename_i heq
          subst heq
          simp only [List.map_cons, List.pairwise_cons]
          exact ⟨hk, hr⟩
        · simp only [List.map_cons, List.pairwise_cons]
          refine ⟨fun y hy => ?_, ih hr⟩
          obtain ⟨c, hc, rfl⟩ := List.mem_map.mp hy
          rcases Memory.mem_insert _ _ _ _ hc with rfl | hc
          · dsimp only; omega
          · exact hk _ (List.mem_map_of_mem hc)
  · rcases Memory.mem_insert _ _ _ _ hc with rfl | hc
    · exact ha
    · exact hm.2 c hc

theorem State.reset_mem_wf : Memory.wf State.reset.mem := by decide

/-! ### What an access can answer -/

/-- Everything a read that gives a byte says (20_memory.md R40). -/
theorem memRead_ok {s : State} {a : Word} {v : Byte} (h : memRead s a = .ok v) :
    s.cellKind a ≠ .absent ∧
      (Memory.lookup s.mem a.toNat = some v ∨
        (Memory.lookup s.mem a.toNat = none ∧ s.cfg.unset = .draw ∧ v = Config.unsetByte a)) := by
  unfold memRead readUnset at h
  split at h
  · cases h
  all_goals
    rename_i hk
    refine ⟨by simp [hk], ?_⟩
    split at h
    · cases h; exact .inl ‹_›
    · split at h
      · cases h
      · cases h; exact .inr ⟨‹_›, ‹_›, rfl⟩

/-- Everything a read that faults says (R40, 10_state.md R27). -/
theorem memRead_error {s : State} {a : Word} {f : Fault} (h : memRead s a = .error f) :
    (f = .unmappedAccess a ∧ s.cellKind a = .absent) ∨
      (f = .unsetRead a ∧ Memory.lookup s.mem a.toNat = none ∧ s.cfg.unset = .faultOnRead) := by
  unfold memRead readUnset at h
  split at h
  · cases h; exact .inl ⟨rfl, ‹_›⟩
  all_goals
    split at h
    · cases h
    · split at h
      · cases h; exact .inr ⟨rfl, ‹_›, ‹_›⟩
      · cases h

/-- Everything a write that is done says (R41). -/
theorem memWrite_ok {s t : State} {a : Word} {v : Byte} (h : memWrite s a v = .ok t) :
    s.cellKind a = .ram ∧ t = { s with mem := Memory.insert s.mem a.toNat v } := by
  unfold memWrite at h
  split at h <;> cases h
  exact ⟨‹_›, rfl⟩

/-- Everything a write that faults says (R41). -/
theorem memWrite_error {s : State} {a : Word} {v : Byte} {f : Fault} (h : memWrite s a v = .error f) :
    f = .unmappedAccess a ∧ s.cellKind a ≠ .ram := by
  unfold memWrite at h
  split at h <;> cases h <;> exact ⟨rfl, by simp [*]⟩

theorem memWrite_ram {s : State} {a : Word} (v : Byte) (h : s.cellKind a = .ram) :
    memWrite s a v = .ok { s with mem := Memory.insert s.mem a.toNat v } := by
  simp [memWrite, h]

/-- A read sees the parameters and one cell of memory, and nothing else (20_memory.md R47). -/
theorem memRead_congr {s t : State} (a : Word) (hc : t.cfg = s.cfg)
    (hm : Memory.lookup t.mem a.toNat = Memory.lookup s.mem a.toNat) : memRead t a = memRead s a := by
  simp [memRead, readUnset, State.cellKind, hc, hm]

theorem memWrite_wf {s t : State} {a : Word} {v : Byte} (h : memWrite s a v = .ok t) (hs : Memory.wf s.mem) :
    Memory.wf t.mem := by
  obtain ⟨-, rfl⟩ := memWrite_ok h
  exact Memory.insert_wf _ _ _ a.isLt hs

/-- Loading by the environment keeps the canonical form. -/
theorem State.load_wf (s : State) (a : Word) (bs : List Byte) (hs : Memory.wf s.mem) :
    Memory.wf (s.load a bs).mem := by
  induction bs generalizing s a with
  | nil => exact hs
  | cons v rest ih => exact ih _ _ (Memory.insert_wf _ _ _ a.isLt hs)

/-! ### The stack -/

theorem sub_one_ne_sub_two (a : Word) : a - 1#16 ≠ a - 2#16 := by bv_omega

/-- Everything a stack store that is done says (44_stack.md R210). -/
theorem stackStore_ok {s t : State} {w : Word} (h : stackStore s w = .ok t) :
    s.cellKind (s.sp - 1#16) = .ram ∧ s.cellKind (s.sp - 2#16) = .ram ∧
      t = { s with
        mem := Memory.insert (Memory.insert s.mem (s.sp - 1#16).toNat (hi8 w)) (s.sp - 2#16).toNat (lo8 w),
        sp := s.sp - 2#16 } := by
  unfold stackStore at h
  split at h
  · cases h
  · rename_i s1 h1
    obtain ⟨k1, rfl⟩ := memWrite_ok h1
    split at h
    · cases h
    · rename_i s2 h2
      obtain ⟨k2, rfl⟩ := memWrite_ok h2
      cases h
      exact ⟨k1, k2, rfl⟩

/-- A stack store is done wherever both cells are RAM. -/
theorem stackStore_ram {s : State} (w : Word) (h1 : s.cellKind (s.sp - 1#16) = .ram)
    (h2 : s.cellKind (s.sp - 2#16) = .ram) :
    stackStore s w = .ok { s with
      mem := Memory.insert (Memory.insert s.mem (s.sp - 1#16).toNat (hi8 w)) (s.sp - 2#16).toNat (lo8 w),
      sp := s.sp - 2#16 } := by
  have h2' : State.cellKind { s with mem := Memory.insert s.mem (s.sp - 1#16).toNat (hi8 w) }
      (s.sp - 2#16) = .ram := h2
  simp only [stackStore, memWrite_ram _ h1, memWrite_ram _ h2']

/-- Everything a stack store that faults says. -/
theorem stackStore_error {s : State} {w : Word} {f : Fault} (h : stackStore s w = .error f) :
    (f = .unmappedAccess (s.sp - 1#16) ∧ s.cellKind (s.sp - 1#16) ≠ .ram) ∨
      (f = .unmappedAccess (s.sp - 2#16) ∧ s.cellKind (s.sp - 1#16) = .ram ∧
        s.cellKind (s.sp - 2#16) ≠ .ram) := by
  unfold stackStore at h
  split at h
  · cases h; exact .inl (memWrite_error ‹_›)
  · rename_i s1 h1
    obtain ⟨k1, rfl⟩ := memWrite_ok h1
    split at h
    · rename_i h2
      cases h
      obtain ⟨rfl, k2⟩ := memWrite_error h2
      exact .inr ⟨rfl, k1, k2⟩
    · cases h

/-- Everything a stack load that is done says (R210). -/
theorem stackLoad_ok {s t : State} {w : Word} (h : stackLoad s = .ok (w, t)) :
    ∃ lo hi, memRead s s.sp = .ok lo ∧ memRead s (s.sp + 1#16) = .ok hi ∧ w = hi ++ lo ∧
      t = { s with sp := s.sp + 2#16 } := by
  unfold stackLoad at h
  split at h
  · cases h
  · rename_i lo h1
    split at h
    · cases h
    · rename_i hi h2
      cases h
      exact ⟨lo, hi, h1, h2, rfl, rfl⟩

/-- Everything a stack load that faults says. -/
theorem stackLoad_error {s : State} {f : Fault} (h : stackLoad s = .error f) :
    memRead s s.sp = .error f ∨ memRead s (s.sp + 1#16) = .error f := by
  unfold stackLoad at h
  split at h
  · rename_i h1; cases h; exact .inl h1
  · split at h
    · rename_i h2; cases h; exact .inr h2
    · cases h

end Sys2Proof.Machine
end

