-- ==== Sys2Proof/Laws/Ops.lean ====
section
/-! SUPPORT. For each shared operation, one lemma that says everything it can do when it answers a next state
(or an `ok`), and what its other answers are; proofs cite these and do not unfold the operations. -/

namespace Sys2Proof.Machine

/-! ### Stopping and going on -/

theorem attempt_next {α : Type} {r : Except Fault α} {k : α → Result} {t : State}
    (h : attempt r k = .next t) : ∃ v, r = .ok v ∧ k v = .next t := by
  cases r with
  | ok v => exact ⟨v, rfl, h⟩
  | error f => cases h

theorem attempt_fault {α : Type} {r : Except Fault α} {k : α → Result} {f : Fault}
    (h : attempt r k = .fault f) : r = .error f ∨ ∃ v, r = .ok v ∧ k v = .fault f := by
  cases r with
  | ok v => exact .inr ⟨v, rfl, h⟩
  | error g => cases h; exact .inl rfl

theorem attempt_refused {α : Type} {r : Except Fault α} {k : α → Result} {x : Refusal}
    (h : attempt r k = .refused x) : ∃ v, r = .ok v ∧ k v = .refused x := by
  cases r with
  | ok v => exact ⟨v, rfl, h⟩
  | error f => cases h

@[simp] theorem attempt_ok {α : Type} (v : α) (k : α → Result) : attempt (.ok v) k = k v := rfl

@[simp] theorem attempt_error {α : Type} (f : Fault) (k : α → Result) : attempt (.error f) k = .fault f := rfl

/-! ### Operands -/

@[simp] theorem readOperand_reg (s : State) (r : Reg) : readOperand s (.reg r) = .ok (s.reg r) := rfl

@[simp] theorem readOperand_m (s : State) : readOperand s .m = memRead s s.hl := rfl

@[simp] theorem writeOperand_reg (s : State) (r : Reg) (v : Byte) :
    writeOperand s (.reg r) v = .ok (s.setReg r v) := rfl

@[simp] theorem writeOperand_m (s : State) (v : Byte) : writeOperand s .m v = memWrite s s.hl v := rfl

/-- A register field written: either one register, or the one byte at HL (10_state.md R15). -/
theorem writeOperand_ok {s t : State} {o : Operand} {v : Byte} (h : writeOperand s o v = .ok t) :
    (∃ r, o = .reg r ∧ t = s.setReg r v) ∨
      (o = .m ∧ s.cellKind s.hl = .ram ∧ t = { s with mem := Memory.insert s.mem s.hl.toNat v }) := by
  cases o with
  | reg r => cases h; exact .inl ⟨r, rfl, rfl⟩
  | m => exact .inr ⟨rfl, memWrite_ok h⟩

/-! ### The families -/

theorem withOperand_next {s t : State} {src : Operand} {f : Byte → State}
    (h : withOperand s src f = .next t) : ∃ v, readOperand s src = .ok v ∧ t = (f v).advance 1#16 := by
  obtain ⟨v, hv, h⟩ := attempt_next h
  cases h
  exact ⟨v, hv, rfl⟩

theorem changeOperand_next {s t : State} {dst : Operand} {f : Byte → Byte}
    (h : changeOperand s dst f = .next t) :
    ∃ v u, readOperand s dst = .ok v ∧ writeOperand s dst (f v) = .ok u ∧
      t = { u with flags := u.flags.setSzp (f v) }.advance 1#16 := by
  obtain ⟨v, hv, h⟩ := attempt_next h
  obtain ⟨u, hu, h⟩ := attempt_next h
  cases h
  exact ⟨v, u, hv, hu, rfl⟩

theorem jumpIf_next {s t : State} {cond : Cond} {w : Word} (h : jumpIf s cond w = .next t) :
    t = if condHolds s.flags cond then s.goto w else s.advance 3#16 := by
  cases h; rfl

theorem storePair_next {s t : State} {rp : StackPair} (h : storePair s rp = .next t) :
    ∃ u, stackStore s (s.stackPair rp) = .ok u ∧ t = u.advance 1#16 := by
  obtain ⟨u, hu, h⟩ := attempt_next h
  cases h
  exact ⟨u, hu, rfl⟩

theorem loadPair_next {s t : State} {rp : StackPair} (h : loadPair s rp = .next t) :
    ∃ w u, stackLoad s = .ok (w, u) ∧ t = (u.setStackPair rp w).advance 1#16 := by
  obtain ⟨⟨w, u⟩, hu, h⟩ := attempt_next h
  cases h
  exact ⟨w, u, hu, rfl⟩

theorem callTo_next {s t : State} {w : Word} (h : callTo s w = .next t) :
    ∃ u, stackStore s (s.pc + 3#16) = .ok u ∧ t = u.goto w := by
  obtain ⟨u, hu, h⟩ := attempt_next h
  cases h
  exact ⟨u, hu, rfl⟩

/-- A conditional call: taken as a call, or past the three bytes. -/
theorem callIf_next {s t : State} {cond : Cond} {w : Word} (h : callIf s cond w = .next t) :
    (condHolds s.flags cond = true ∧ ∃ u, stackStore s (s.pc + 3#16) = .ok u ∧ t = u.goto w) ∨
      (condHolds s.flags cond = false ∧ t = s.advance 3#16) := by
  unfold callIf at h
  split at h
  · exact .inl ⟨‹_›, callTo_next h⟩
  · rename_i hc; cases h; exact .inr ⟨Bool.eq_false_of_not_eq_true hc, rfl⟩

theorem returnNow_next {s t : State} (h : returnNow s = .next t) :
    ∃ w u, stackLoad s = .ok (w, u) ∧ t = u.goto w := by
  obtain ⟨⟨w, u⟩, hu, h⟩ := attempt_next h
  cases h
  exact ⟨w, u, hu, rfl⟩

/-- A conditional return: taken as a return, or past the one byte. -/
theorem returnIf_next {s t : State} {cond : Cond} (h : returnIf s cond = .next t) :
    (condHolds s.flags cond = true ∧ ∃ w u, stackLoad s = .ok (w, u) ∧ t = u.goto w) ∨
      (condHolds s.flags cond = false ∧ t = s.advance 1#16) := by
  unfold returnIf at h
  split at h
  · exact .inl ⟨‹_›, returnNow_next h⟩
  · rename_i hc; cases h; exact .inr ⟨Bool.eq_false_of_not_eq_true hc, rfl⟩

/-! ### Fetch and step -/

/-- Everything a fetch that gives an instruction says (20_memory.md R51): the bytes read, in order, by format. -/
theorem fetch_ok {s : State} {i : Instr} (h : fetch s = .ok i) :
    ∃ op, memRead s s.pc = .ok op ∧
      (opcodeFormat op = some (.f1 i) ∨
        (∃ k v, opcodeFormat op = some (.f2 k) ∧ memRead s (s.pc + 1#16) = .ok v ∧ i = k v) ∨
        (∃ k lo hi, opcodeFormat op = some (.f3 k) ∧ memRead s (s.pc + 1#16) = .ok lo ∧
          memRead s (s.pc + 2#16) = .ok hi ∧ i = k (imm16 lo hi))) := by
  unfold fetch at h
  split at h
  · cases h
  rename_i op hop
  refine ⟨op, hop, ?_⟩
  split at h
  · cases h
  · rename_i hf; cases h; exact .inl hf
  · rename_i k hf
    split at h
    · cases h
    · rename_i v hv; cases h; exact .inr (.inl ⟨k, v, hf, hv, rfl⟩)
  · rename_i k hf
    split at h
    · cases h
    rename_i lo hlo
    split at h
    · cases h
    · rename_i hi hhi; cases h; exact .inr (.inr ⟨k, lo, hi, hf, hlo, hhi, rfl⟩)

/-- Everything a fetch that faults says: an access of it faulted, or the opcode is unassigned. -/
theorem fetch_error {s : State} {f : Fault} (h : fetch s = .error f) :
    (∃ a, memRead s a = .error f) ∨
      (∃ op, memRead s s.pc = .ok op ∧ opcodeFormat op = none ∧ f = .illegalOpcode s.pc op) := by
  unfold fetch at h
  split at h
  · rename_i h1; cases h; exact .inl ⟨_, h1⟩
  rename_i op hop
  split at h
  · rename_i hf; cases h; exact .inr ⟨op, hop, hf, rfl⟩
  · cases h
  · split at h
    · rename_i h1; cases h; exact .inl ⟨_, h1⟩
    · cases h
  · split at h
    · rename_i h1; cases h; exact .inl ⟨_, h1⟩
    · split at h
      · rename_i h1; cases h; exact .inl ⟨_, h1⟩
      · cases h

/-- Everything a step to a next state says. -/
theorem step_next {s t : State} (h : step s = .next t) :
    (s.halted = true ∧ t = s) ∨
      (s.halted = false ∧ ∃ i u, fetch s = .ok i ∧ exec i s = .next u ∧ t = u.nextTick) := by
  unfold step at h
  split at h
  · cases h; exact .inl ⟨‹_›, rfl⟩
  · rename_i hr
    refine .inr ⟨by simpa using hr, ?_⟩
    split at h
    · cases h
    rename_i i hi
    split at h
    · rename_i u hu; cases h; exact ⟨i, u, hi, hu, rfl⟩
    all_goals cases h

/-- Everything a step that faults says. -/
theorem step_fault {s : State} {f : Fault} (h : step s = .fault f) :
    s.halted = false ∧ (fetch s = .error f ∨ ∃ i, fetch s = .ok i ∧ exec i s = .fault f) := by
  unfold step at h
  split at h
  · cases h
  · rename_i hr
    refine ⟨by simpa using hr, ?_⟩
    split at h
    · rename_i g hg; cases h; exact .inl hg
    rename_i i hi
    split at h
    · cases h
    · rename_i g hg; cases h; exact .inr ⟨i, hi, hg⟩
    · cases h

end Sys2Proof.Machine
end

