-- ==== Sys2Proof/Laws/PerInstr.lean ====
section
/-! SUPPORT. A fact about every instruction as syntax, one lemma per constructor. -/

namespace Sys2Proof.Laws.EncodedLength

/-- The encoding is as long as the format of its own first byte says (30_encoding.md R60, R68): the first byte
alone decides the length. -/
def Statement (i : Instr) : Prop :=
  (encode i).head?.bind (fun op => (opcodeFormat op).map OpFormat.length) = some (encode i).length

theorem add (src : Operand) : Statement (.add src) := by
  rcases src with ⟨⟨⟩⟩ | _ <;> rfl

theorem adc (src : Operand) : Statement (.adc src) := by
  rcases src with ⟨⟨⟩⟩ | _ <;> rfl

theorem sub (src : Operand) : Statement (.sub src) := by
  rcases src with ⟨⟨⟩⟩ | _ <;> rfl

theorem sbb (src : Operand) : Statement (.sbb src) := by
  rcases src with ⟨⟨⟩⟩ | _ <;> rfl

theorem ana (src : Operand) : Statement (.ana src) := by
  rcases src with ⟨⟨⟩⟩ | _ <;> rfl

theorem xra (src : Operand) : Statement (.xra src) := by
  rcases src with ⟨⟨⟩⟩ | _ <;> rfl

theorem ora (src : Operand) : Statement (.ora src) := by
  rcases src with ⟨⟨⟩⟩ | _ <;> rfl

theorem cmp (src : Operand) : Statement (.cmp src) := by
  rcases src with ⟨⟨⟩⟩ | _ <;> rfl

theorem adi (imm : Byte) : Statement (.adi imm) := rfl

theorem aci (imm : Byte) : Statement (.aci imm) := rfl

theorem sui (imm : Byte) : Statement (.sui imm) := rfl

theorem sbi (imm : Byte) : Statement (.sbi imm) := rfl

theorem ani (imm : Byte) : Statement (.ani imm) := rfl

theorem xri (imm : Byte) : Statement (.xri imm) := rfl

theorem ori (imm : Byte) : Statement (.ori imm) := rfl

theorem cpi (imm : Byte) : Statement (.cpi imm) := rfl

theorem inr (dst : Operand) : Statement (.inr dst) := by
  rcases dst with ⟨⟨⟩⟩ | _ <;> rfl

theorem dcr (dst : Operand) : Statement (.dcr dst) := by
  rcases dst with ⟨⟨⟩⟩ | _ <;> rfl

theorem rlc : Statement (.rlc) := rfl

theorem rrc : Statement (.rrc) := rfl

theorem ral : Statement (.ral) := rfl

theorem rar : Statement (.rar) := rfl

theorem cma : Statement (.cma) := rfl

theorem stc : Statement (.stc) := rfl

theorem cmc : Statement (.cmc) := rfl

theorem dad (rp : Pair) : Statement (.dad rp) := by
  cases rp <;> rfl

theorem inx (rp : Pair) : Statement (.inx rp) := by
  cases rp <;> rfl

theorem dcx (rp : Pair) : Statement (.dcx rp) := by
  cases rp <;> rfl

theorem jmp (target : Word) : Statement (.jmp target) := rfl

theorem jnz (target : Word) : Statement (.jnz target) := rfl

theorem jz (target : Word) : Statement (.jz target) := rfl

theorem jnc (target : Word) : Statement (.jnc target) := rfl

theorem jc (target : Word) : Statement (.jc target) := rfl

theorem jpo (target : Word) : Statement (.jpo target) := rfl

theorem jpe (target : Word) : Statement (.jpe target) := rfl

theorem jp (target : Word) : Statement (.jp target) := rfl

theorem jm (target : Word) : Statement (.jm target) := rfl

theorem mov (dst : Operand) (src : Operand) : Statement (.mov dst src) := by
  rcases dst with ⟨⟨⟩⟩ | _ <;> rcases src with ⟨⟨⟩⟩ | _ <;> rfl

theorem mvi (dst : Operand) (imm : Byte) : Statement (.mvi dst imm) := by
  rcases dst with ⟨⟨⟩⟩ | _ <;> rfl

theorem lxi (rp : Pair) (imm : Word) : Statement (.lxi rp imm) := by
  cases rp <;> rfl

theorem lda (addr : Word) : Statement (.lda addr) := rfl

theorem sta (addr : Word) : Statement (.sta addr) := rfl

theorem pop (rp : StackPair) : Statement (.pop rp) := by
  cases rp <;> rfl

theorem push (rp : StackPair) : Statement (.push rp) := by
  cases rp <;> rfl

theorem call (target : Word) : Statement (.call target) := rfl

theorem cnz (target : Word) : Statement (.cnz target) := rfl

theorem cz (target : Word) : Statement (.cz target) := rfl

theorem cnc (target : Word) : Statement (.cnc target) := rfl

theorem cc (target : Word) : Statement (.cc target) := rfl

theorem cpo (target : Word) : Statement (.cpo target) := rfl

theorem cpe (target : Word) : Statement (.cpe target) := rfl

theorem cp (target : Word) : Statement (.cp target) := rfl

theorem cm (target : Word) : Statement (.cm target) := rfl

theorem ret : Statement (.ret) := rfl

theorem rnz : Statement (.rnz) := rfl

theorem rz : Statement (.rz) := rfl

theorem rnc : Statement (.rnc) := rfl

theorem rc : Statement (.rc) := rfl

theorem rpo : Statement (.rpo) := rfl

theorem rpe : Statement (.rpe) := rfl

theorem rp : Statement (.rp) := rfl

theorem rm : Statement (.rm) := rfl

theorem hlt : Statement (.hlt) := rfl

theorem inPort (port : Byte) : Statement (.inPort port) := rfl

theorem outPort (port : Byte) : Statement (.outPort port) := rfl

theorem nop : Statement (.nop) := rfl

end Sys2Proof.Laws.EncodedLength
end

