-- ==== Sys2Proof/Tests/Slice0.lean ====
section
/-! SUPPORT. Tests of one step each, with values taken from the spec; the smoke test of WellFormed; one written-out word
for every constructor; and, for every obligation that has hypotheses, a witness that meets them. -/

namespace Sys2Proof.Tests

open Sys2Proof Sys2Proof.Machine Sys2Proof.Claims

/-- A state with pc at 0x0100 and all else as after reset. -/
def start : State := { State.reset with pc := 0x0100#16 }

/-- One step of the code at pc, and what `f` sees of the state after it. -/
def after {α : Type} (code : List Byte) (s : State) (f : State → α) : Option α :=
  match step (s.load s.pc code) with
  | .next t => some (f t)
  | .fault _ => none
  | .refused _ => none

/-- The fault of one step of the code at pc. -/
def faultOf (code : List Byte) (s : State) : Option Fault :=
  match step (s.load s.pc code) with
  | .fault f => some f
  | .next _ => none
  | .refused _ => none

/-- The bytes decode to the instruction, and nothing is left over. -/
def decodesTo (bs : List Byte) (i : Instr) : Bool :=
  match decode bs with
  | .ok (j, rest) => decide (j = i) && rest.isEmpty
  | .error _ => false

/-! ### WellFormed (30_encoding.md R70) -/

theorem test_mov_m_m_is_ill_formed : (Instr.mov .m .m).wellFormed = false := by decide

theorem test_mov_m_a_is_well_formed : (Instr.mov .m (.reg .a)).wellFormed = true := by decide

theorem test_mov_m_m_is_refused : exec (.mov .m .m) start = .refused .movMemoryToMemory := rfl

/-! ### One word of every constructor, field by field from its row of 30_encoding.md section 3 -/

theorem test_decode_accumulator :
    decodesTo [0b10000000] (.add (.reg .b)) = true ∧
    decodesTo [0b10001001] (.adc (.reg .c)) = true ∧
    decodesTo [0b10010010] (.sub (.reg .d)) = true ∧
    decodesTo [0b10011011] (.sbb (.reg .e)) = true ∧
    decodesTo [0b10100100] (.ana (.reg .h)) = true ∧
    decodesTo [0b10101101] (.xra (.reg .l)) = true ∧
    decodesTo [0b10110110] (.ora .m) = true ∧
    decodesTo [0b10111111] (.cmp (.reg .a)) = true := by decide

theorem test_decode_immediate :
    decodesTo [0b11000110, 0x5A] (.adi 0x5A) = true ∧
    decodesTo [0b11001110, 0x5A] (.aci 0x5A) = true ∧
    decodesTo [0b11010110, 0x5A] (.sui 0x5A) = true ∧
    decodesTo [0b11011110, 0x5A] (.sbi 0x5A) = true ∧
    decodesTo [0b11100110, 0x5A] (.ani 0x5A) = true ∧
    decodesTo [0b11101110, 0x5A] (.xri 0x5A) = true ∧
    decodesTo [0b11110110, 0x5A] (.ori 0x5A) = true ∧
    decodesTo [0b11111110, 0x5A] (.cpi 0x5A) = true := by decide

theorem test_decode_increment_rotate_pair :
    decodesTo [0b00101100] (.inr (.reg .l)) = true ∧
    decodesTo [0b00110101] (.dcr .m) = true ∧
    decodesTo [0b00000111] (.rlc) = true ∧
    decodesTo [0b00001111] (.rrc) = true ∧
    decodesTo [0b00010111] (.ral) = true ∧
    decodesTo [0b00011111] (.rar) = true ∧
    decodesTo [0b00101111] (.cma) = true ∧
    decodesTo [0b00110111] (.stc) = true ∧
    decodesTo [0b00111111] (.cmc) = true ∧
    decodesTo [0b00001001] (.dad .bc) = true ∧
    decodesTo [0b00110011] (.inx .sp) = true ∧
    decodesTo [0b00011011] (.dcx .de) = true := by decide

theorem test_decode_jump :
    decodesTo [0b11000011, 0x34, 0x12] (.jmp 0x1234) = true ∧
    decodesTo [0b11000010, 0x34, 0x12] (.jnz 0x1234) = true ∧
    decodesTo [0b11001010, 0x34, 0x12] (.jz 0x1234) = true ∧
    decodesTo [0b11010010, 0x34, 0x12] (.jnc 0x1234) = true ∧
    decodesTo [0b11011010, 0x34, 0x12] (.jc 0x1234) = true ∧
    decodesTo [0b11100010, 0x34, 0x12] (.jpo 0x1234) = true ∧
    decodesTo [0b11101010, 0x34, 0x12] (.jpe 0x1234) = true ∧
    decodesTo [0b11110010, 0x34, 0x12] (.jp 0x1234) = true ∧
    decodesTo [0b11111010, 0x34, 0x12] (.jm 0x1234) = true := by decide

theorem test_decode_memory_register :
    decodesTo [0b01000111] (.mov (.reg .b) (.reg .a)) = true ∧
    decodesTo [0b01110001] (.mov .m (.reg .c)) = true ∧
    decodesTo [0b00010110, 0x5A] (.mvi (.reg .d) 0x5A) = true ∧
    decodesTo [0b00100001, 0x34, 0x12] (.lxi .hl 0x1234) = true ∧
    decodesTo [0b00111010, 0x34, 0x12] (.lda 0x1234) = true ∧
    decodesTo [0b00110010, 0x34, 0x12] (.sta 0x1234) = true := by decide

theorem test_decode_stack_pair :
    decodesTo [0b11110001] (.pop .psw) = true ∧
    decodesTo [0b11010101] (.push .de) = true := by decide

theorem test_decode_call :
    decodesTo [0b11001101, 0x34, 0x12] (.call 0x1234) = true ∧
    decodesTo [0b11000100, 0x34, 0x12] (.cnz 0x1234) = true ∧
    decodesTo [0b11001100, 0x34, 0x12] (.cz 0x1234) = true ∧
    decodesTo [0b11010100, 0x34, 0x12] (.cnc 0x1234) = true ∧
    decodesTo [0b11011100, 0x34, 0x12] (.cc 0x1234) = true ∧
    decodesTo [0b11100100, 0x34, 0x12] (.cpo 0x1234) = true ∧
    decodesTo [0b11101100, 0x34, 0x12] (.cpe 0x1234) = true ∧
    decodesTo [0b11110100, 0x34, 0x12] (.cp 0x1234) = true ∧
    decodesTo [0b11111100, 0x34, 0x12] (.cm 0x1234) = true := by decide

theorem test_decode_return :
    decodesTo [0b11001001] (.ret) = true ∧
    decodesTo [0b11000000] (.rnz) = true ∧
    decodesTo [0b11001000] (.rz) = true ∧
    decodesTo [0b11010000] (.rnc) = true ∧
    decodesTo [0b11011000] (.rc) = true ∧
    decodesTo [0b11100000] (.rpo) = true ∧
    decodesTo [0b11101000] (.rpe) = true ∧
    decodesTo [0b11110000] (.rp) = true ∧
    decodesTo [0b11111000] (.rm) = true := by decide

theorem test_decode_other :
    decodesTo [0b01110110] (.hlt) = true ∧
    decodesTo [0b11011011, 0x01] (.inPort 0x01) = true ∧
    decodesTo [0b11010011, 0x02] (.outPort 0x02) = true ∧
    decodesTo [0b00000000] (.nop) = true := by decide

/-- 30_encoding.md R78. -/
theorem test_unassigned_bytes_are_refused :
    unassignedBytes.all (fun b => match decode [b, 0x00, 0x00] with
      | .ok _ => false
      | .error _ => true) = true := by decide

/-! ### One step each -/

/-- 95_test_vectors.md 2.2. -/
theorem test_add_b :
    after [0x80] ({ start with a := 0x12, flags := ⟨false, false, false, true⟩, b := 0x34 }) (fun t => (t.a, t.flags)) =
      some (0x46, ⟨false, false, false, false⟩) := by decide

/-- 95_test_vectors.md 2.2. -/
theorem test_add_m :
    after [0x86] (({ start with a := 0xFF, h := 0x20, l := 0x00 }).load 0x2000 [0x01]) (fun t => (t.a, t.flags)) =
      some (0x00, ⟨false, true, true, true⟩) := by decide

/-- 95_test_vectors.md 2.2. -/
theorem test_adc_c :
    after [0x89] ({ start with a := 0xFF, flags := ⟨false, false, false, true⟩, c := 0x00 }) (fun t => (t.a, t.flags)) =
      some (0x00, ⟨false, true, true, true⟩) := by decide

/-- 40_alu_accumulator.md R106, corner case. -/
theorem test_adc_c_ff :
    after [0x89] ({ start with a := 0xFF, flags := ⟨false, false, false, true⟩, c := 0xFF }) (fun t => (t.a, t.flags)) =
      some (0xFF, ⟨true, false, true, true⟩) := by decide

/-- 95_test_vectors.md 2.2. -/
theorem test_sub_d :
    after [0x92] ({ start with a := 0x03, flags := ⟨false, false, false, false⟩, d := 0x05 }) (fun t => (t.a, t.flags)) =
      some (0xFE, ⟨true, false, false, true⟩) := by decide

/-- 95_test_vectors.md 2.2. -/
theorem test_sub_a :
    after [0x97] ({ start with a := 0x5A, flags := ⟨false, false, false, true⟩ }) (fun t => (t.a, t.flags)) =
      some (0x00, ⟨false, true, true, false⟩) := by decide

/-- 95_test_vectors.md 2.2. -/
theorem test_sbb_e :
    after [0x9B] ({ start with a := 0x00, flags := ⟨false, false, false, true⟩, e := 0xFF }) (fun t => (t.a, t.flags)) =
      some (0x00, ⟨false, true, true, true⟩) := by decide

/-- 40_alu_accumulator.md R108, example. -/
theorem test_sbb_d :
    after [0x9A] ({ start with a := 0x05, flags := ⟨false, false, false, true⟩, d := 0x03 }) (fun t => (t.a, t.flags)) =
      some (0x01, ⟨false, false, false, false⟩) := by decide

/-- 95_test_vectors.md 2.2. -/
theorem test_ana_h :
    after [0xA4] ({ start with a := 0xF0, flags := ⟨false, false, false, true⟩, h := 0x3C }) (fun t => (t.a, t.flags)) =
      some (0x30, ⟨false, false, true, false⟩) := by decide

/-- 95_test_vectors.md 2.2. -/
theorem test_xra_a :
    after [0xAF] ({ start with a := 0x5A, flags := ⟨false, false, false, true⟩ }) (fun t => (t.a, t.flags)) =
      some (0x00, ⟨false, true, true, false⟩) := by decide

/-- 95_test_vectors.md 2.2. -/
theorem test_xra_l :
    after [0xAD] ({ start with a := 0xFF, flags := ⟨false, false, false, false⟩, l := 0x0F }) (fun t => (t.a, t.flags)) =
      some (0xF0, ⟨true, false, true, false⟩) := by decide

/-- 95_test_vectors.md 2.2. -/
theorem test_ora_a :
    after [0xB7] ({ start with a := 0x80, flags := ⟨false, false, false, true⟩ }) (fun t => (t.a, t.flags)) =
      some (0x80, ⟨true, false, false, false⟩) := by decide

/-- 40_alu_accumulator.md R111, example. -/
theorem test_ora_b :
    after [0xB0] ({ start with a := 0x80, flags := ⟨false, false, false, false⟩, b := 0x01 }) (fun t => (t.a, t.flags)) =
      some (0x81, ⟨true, false, true, false⟩) := by decide

/-- 95_test_vectors.md 2.2. -/
theorem test_cmp_b :
    after [0xB8] ({ start with a := 0x05, flags := ⟨false, false, false, false⟩, b := 0x06 }) (fun t => (t.a, t.flags)) =
      some (0x05, ⟨true, false, true, true⟩) := by decide

/-- 95_test_vectors.md 2.2. -/
theorem test_cmp_m :
    after [0xBE] (({ start with a := 0x0F, h := 0x20, l := 0x00 }).load 0x2000 [0x10]) (fun t => (t.a, t.flags)) =
      some (0x0F, ⟨true, false, true, true⟩) := by decide

/-- 95_test_vectors.md 2.1. -/
theorem test_adi :
    after [0xC6, 0x01] ({ start with a := 0x7F, flags := ⟨false, false, false, false⟩ }) (fun t => (t.a, t.flags)) =
      some (0x80, ⟨true, false, false, false⟩) := by decide

/-- 95_test_vectors.md 2.1. -/
theorem test_adi_ignores_carry :
    after [0xC6, 0x00] ({ start with a := 0x00, flags := ⟨false, false, false, true⟩ }) (fun t => (t.a, t.flags)) =
      some (0x00, ⟨false, true, true, false⟩) := by decide

/-- 95_test_vectors.md 2.1. -/
theorem test_aci :
    after [0xCE, 0xFF] ({ start with a := 0xFF, flags := ⟨false, false, false, true⟩ }) (fun t => (t.a, t.flags)) =
      some (0xFF, ⟨true, false, true, true⟩) := by decide

/-- 95_test_vectors.md 2.1. -/
theorem test_aci_wraps :
    after [0xCE, 0x00] ({ start with a := 0xFF, flags := ⟨false, false, false, true⟩ }) (fun t => (t.a, t.flags)) =
      some (0x00, ⟨false, true, true, true⟩) := by decide

/-- 95_test_vectors.md 2.1. -/
theorem test_sui :
    after [0xD6, 0x01] ({ start with a := 0x80, flags := ⟨false, false, false, false⟩ }) (fun t => (t.a, t.flags)) =
      some (0x7F, ⟨false, false, false, false⟩) := by decide

/-- 95_test_vectors.md 2.1. -/
theorem test_sui_borrows :
    after [0xD6, 0x80] ({ start with a := 0x00, flags := ⟨false, false, false, false⟩ }) (fun t => (t.a, t.flags)) =
      some (0x80, ⟨true, false, false, true⟩) := by decide

/-- 95_test_vectors.md 2.1. -/
theorem test_sbi :
    after [0xDE, 0xFF] ({ start with a := 0x00, flags := ⟨false, false, false, true⟩ }) (fun t => (t.a, t.flags)) =
      some (0x00, ⟨false, true, true, true⟩) := by decide

/-- 95_test_vectors.md 2.1. -/
theorem test_sbi_no_borrow :
    after [0xDE, 0x0F] ({ start with a := 0x10, flags := ⟨false, false, false, true⟩ }) (fun t => (t.a, t.flags)) =
      some (0x00, ⟨false, true, true, false⟩) := by decide

/-- 95_test_vectors.md 2.1. -/
theorem test_ani :
    after [0xE6, 0xA5] ({ start with a := 0xA5, flags := ⟨false, false, false, true⟩ }) (fun t => (t.a, t.flags)) =
      some (0xA5, ⟨true, false, true, false⟩) := by decide

/-- 95_test_vectors.md 2.1. -/
theorem test_xri :
    after [0xEE, 0x0F] ({ start with a := 0xFF, flags := ⟨false, false, false, true⟩ }) (fun t => (t.a, t.flags)) =
      some (0xF0, ⟨true, false, true, false⟩) := by decide

/-- 95_test_vectors.md 2.1. -/
theorem test_ori :
    after [0xF6, 0x01] ({ start with a := 0x80, flags := ⟨false, false, false, true⟩ }) (fun t => (t.a, t.flags)) =
      some (0x81, ⟨true, false, true, false⟩) := by decide

/-- 95_test_vectors.md 2.1. -/
theorem test_cpi :
    after [0xFE, 0x06] ({ start with a := 0x05, flags := ⟨false, false, false, false⟩ }) (fun t => (t.a, t.flags)) =
      some (0x05, ⟨true, false, true, true⟩) := by decide

/-- 95_test_vectors.md 2.1. -/
theorem test_cpi_above :
    after [0xFE, 0x7F] ({ start with a := 0x80, flags := ⟨false, false, false, false⟩ }) (fun t => (t.a, t.flags)) =
      some (0x80, ⟨false, false, false, false⟩) := by decide

/-- 95_test_vectors.md 2.3. -/
theorem test_inr_l :
    after [0x2C] ({ start with l := 0xFF, flags := ⟨false, false, false, true⟩ }) (fun t => (t.l, t.flags)) =
      some (0x00, ⟨false, true, true, true⟩) := by decide

/-- 95_test_vectors.md 2.3. -/
theorem test_inr_m :
    after [0x34] (({ start with h := 0x20, l := 0x00, flags := ⟨false, false, false, true⟩ }).load 0x2000 [0xFF]) (fun t => (Memory.lookup t.mem 0x2000, t.flags)) =
      some (some 0x00#8, ⟨false, true, true, true⟩) := by decide

/-- 95_test_vectors.md 2.3. -/
theorem test_dcr_h :
    after [0x25] ({ start with h := 0x80, flags := ⟨false, false, false, true⟩ }) (fun t => (t.h, t.flags)) =
      some (0x7F, ⟨false, false, false, true⟩) := by decide

/-- 95_test_vectors.md 2.3. -/
theorem test_dcr_m :
    after [0x35] (({ start with h := 0x20, l := 0x00 }).load 0x2000 [0x00]) (fun t => (Memory.lookup t.mem 0x2000, t.flags)) =
      some (some 0xFF#8, ⟨true, false, true, false⟩) := by decide

/-- 95_test_vectors.md 2.4. -/
theorem test_rlc :
    after [0x07] ({ start with a := 0x80, flags := ⟨true, true, true, false⟩ }) (fun t => (t.a, t.flags)) =
      some (0x01, ⟨true, true, true, true⟩) := by decide

/-- 95_test_vectors.md 2.4. -/
theorem test_rlc_ignores_carry :
    after [0x07] ({ start with a := 0x40, flags := ⟨true, true, true, true⟩ }) (fun t => (t.a, t.flags)) =
      some (0x80, ⟨true, true, true, false⟩) := by decide

/-- 95_test_vectors.md 2.4. -/
theorem test_rrc :
    after [0x0F] ({ start with a := 0x81, flags := ⟨true, true, true, false⟩ }) (fun t => (t.a, t.flags)) =
      some (0xC0, ⟨true, true, true, true⟩) := by decide

/-- 95_test_vectors.md 2.4. -/
theorem test_rrc_ignores_carry :
    after [0x0F] ({ start with a := 0x40, flags := ⟨true, true, true, true⟩ }) (fun t => (t.a, t.flags)) =
      some (0x20, ⟨true, true, true, false⟩) := by decide

/-- 95_test_vectors.md 2.4. -/
theorem test_ral :
    after [0x17] ({ start with a := 0x81, flags := ⟨true, true, true, false⟩ }) (fun t => (t.a, t.flags)) =
      some (0x02, ⟨true, true, true, true⟩) := by decide

/-- 95_test_vectors.md 2.4. -/
theorem test_ral_takes_carry :
    after [0x17] ({ start with a := 0x40, flags := ⟨true, true, true, true⟩ }) (fun t => (t.a, t.flags)) =
      some (0x81, ⟨true, true, true, false⟩) := by decide

/-- 95_test_vectors.md 2.4. -/
theorem test_rar :
    after [0x1F] ({ start with a := 0x81, flags := ⟨true, true, true, false⟩ }) (fun t => (t.a, t.flags)) =
      some (0x40, ⟨true, true, true, true⟩) := by decide

/-- 95_test_vectors.md 2.4. -/
theorem test_rar_takes_carry :
    after [0x1F] ({ start with a := 0x40, flags := ⟨true, true, true, true⟩ }) (fun t => (t.a, t.flags)) =
      some (0xA0, ⟨true, true, true, false⟩) := by decide

/-- 95_test_vectors.md 2.4. -/
theorem test_cma :
    after [0x2F] ({ start with a := 0x81, flags := ⟨true, true, true, true⟩ }) (fun t => (t.a, t.flags)) =
      some (0x7E, ⟨true, true, true, true⟩) := by decide

/-- 95_test_vectors.md 2.4. -/
theorem test_cma_keeps_zero_flag :
    after [0x2F] ({ start with a := 0xFF, flags := ⟨true, true, true, true⟩ }) (fun t => (t.a, t.flags)) =
      some (0x00, ⟨true, true, true, true⟩) := by decide

/-- 95_test_vectors.md 2.4. -/
theorem test_stc :
    after [0x37] ({ start with a := 0x5A, flags := ⟨true, true, true, false⟩ }) (fun t => (t.a, t.flags)) =
      some (0x5A, ⟨true, true, true, true⟩) := by decide

/-- 95_test_vectors.md 2.4. -/
theorem test_cmc :
    after [0x3F] ({ start with a := 0x5A, flags := ⟨true, true, true, true⟩ }) (fun t => (t.a, t.flags)) =
      some (0x5A, ⟨true, true, true, false⟩) := by decide

/-- 95_test_vectors.md 2.4. -/
theorem test_cmc_sets :
    after [0x3F] ({ start with a := 0x5A, flags := ⟨true, true, true, false⟩ }) (fun t => (t.a, t.flags)) =
      some (0x5A, ⟨true, true, true, true⟩) := by decide

/-- 95_test_vectors.md 2.5. -/
theorem test_dad_b :
    after [0x09] ({ start with h := 0x12, l := 0x34, b := 0x0F, c := 0xCC }) (fun t => (t.h, t.l, t.flags)) =
      some (0x22, 0x00, ⟨false, false, false, false⟩) := by decide

/-- 95_test_vectors.md 2.5. -/
theorem test_dad_h :
    after [0x29] ({ start with h := 0x80, l := 0x00 }) (fun t => (t.h, t.l, t.flags)) =
      some (0x00, 0x00, ⟨false, false, false, true⟩) := by decide

/-- 95_test_vectors.md 2.5. -/
theorem test_inx_d :
    after [0x13] ({ start with d := 0x12, e := 0xFF }) (fun t => (t.d, t.e, t.flags)) =
      some (0x13, 0x00, ⟨false, false, false, false⟩) := by decide

/-- 95_test_vectors.md 2.5. -/
theorem test_inx_sp :
    after [0x33] ({ start with sp := 0xFFFF }) (fun t => t.sp) =
      some (0x0000) := by decide

/-- 95_test_vectors.md 2.5. -/
theorem test_dcx_b :
    after [0x0B] ({ start with b := 0x00, c := 0x00 }) (fun t => (t.b, t.c, t.flags)) =
      some (0xFF, 0xFF, ⟨false, false, false, false⟩) := by decide

/-- 41_alu_inc_rotate_pair.md R151, example. -/
theorem test_dcx_d :
    after [0x1B] ({ start with d := 0x01, e := 0x00 }) (fun t => (t.d, t.e)) =
      some (0x00, 0xFF) := by decide

/-- 95_test_vectors.md 2.6. -/
theorem test_jmp_wraps :
    after [0xC3, 0x78, 0x56] ({ start with pc := 0xFFFF#16 }) (fun t => t.pc) =
      some (0x5678#16) := by decide

/-- 42_jump.md R172 to R179. -/
theorem test_jnz_taken :
    after [0xC2, 0x34, 0x12] ({ start with flags := ⟨true, false, true, true⟩ }) (fun t => (t.pc, t.flags)) =
      some (0x1234#16, ⟨true, false, true, true⟩) := by decide

/-- 42_jump.md R172 to R179. -/
theorem test_jnz_not_taken :
    after [0xC2, 0x34, 0x12] ({ start with flags := ⟨false, true, false, false⟩ }) (fun t => t.pc) =
      some (0x0103#16) := by decide

/-- 42_jump.md R172 to R179. -/
theorem test_jz_taken :
    after [0xCA, 0x34, 0x12] ({ start with flags := ⟨false, true, false, false⟩ }) (fun t => (t.pc, t.flags)) =
      some (0x1234#16, ⟨false, true, false, false⟩) := by decide

/-- 42_jump.md R172 to R179. -/
theorem test_jz_not_taken :
    after [0xCA, 0x34, 0x12] ({ start with flags := ⟨true, false, true, true⟩ }) (fun t => t.pc) =
      some (0x0103#16) := by decide

/-- 42_jump.md R172 to R179. -/
theorem test_jnc_taken :
    after [0xD2, 0x34, 0x12] ({ start with flags := ⟨true, true, true, false⟩ }) (fun t => (t.pc, t.flags)) =
      some (0x1234#16, ⟨true, true, true, false⟩) := by decide

/-- 42_jump.md R172 to R179. -/
theorem test_jnc_not_taken :
    after [0xD2, 0x34, 0x12] ({ start with flags := ⟨false, false, false, true⟩ }) (fun t => t.pc) =
      some (0x0103#16) := by decide

/-- 42_jump.md R172 to R179. -/
theorem test_jc_taken :
    after [0xDA, 0x34, 0x12] ({ start with flags := ⟨false, false, false, true⟩ }) (fun t => (t.pc, t.flags)) =
      some (0x1234#16, ⟨false, false, false, true⟩) := by decide

/-- 42_jump.md R172 to R179. -/
theorem test_jc_not_taken :
    after [0xDA, 0x34, 0x12] ({ start with flags := ⟨true, true, true, false⟩ }) (fun t => t.pc) =
      some (0x0103#16) := by decide

/-- 42_jump.md R172 to R179. -/
theorem test_jpo_taken :
    after [0xE2, 0x34, 0x12] ({ start with flags := ⟨true, true, false, true⟩ }) (fun t => (t.pc, t.flags)) =
      some (0x1234#16, ⟨true, true, false, true⟩) := by decide

/-- 42_jump.md R172 to R179. -/
theorem test_jpo_not_taken :
    after [0xE2, 0x34, 0x12] ({ start with flags := ⟨false, false, true, false⟩ }) (fun t => t.pc) =
      some (0x0103#16) := by decide

/-- 42_jump.md R172 to R179. -/
theorem test_jpe_taken :
    after [0xEA, 0x34, 0x12] ({ start with flags := ⟨false, false, true, false⟩ }) (fun t => (t.pc, t.flags)) =
      some (0x1234#16, ⟨false, false, true, false⟩) := by decide

/-- 42_jump.md R172 to R179. -/
theorem test_jpe_not_taken :
    after [0xEA, 0x34, 0x12] ({ start with flags := ⟨true, true, false, true⟩ }) (fun t => t.pc) =
      some (0x0103#16) := by decide

/-- 42_jump.md R172 to R179. -/
theorem test_jp_taken :
    after [0xF2, 0x34, 0x12] ({ start with flags := ⟨false, true, true, true⟩ }) (fun t => (t.pc, t.flags)) =
      some (0x1234#16, ⟨false, true, true, true⟩) := by decide

/-- 42_jump.md R172 to R179. -/
theorem test_jp_not_taken :
    after [0xF2, 0x34, 0x12] ({ start with flags := ⟨true, false, false, false⟩ }) (fun t => t.pc) =
      some (0x0103#16) := by decide

/-- 42_jump.md R172 to R179. -/
theorem test_jm_taken :
    after [0xFA, 0x34, 0x12] ({ start with flags := ⟨true, false, false, false⟩ }) (fun t => (t.pc, t.flags)) =
      some (0x1234#16, ⟨true, false, false, false⟩) := by decide

/-- 42_jump.md R172 to R179. -/
theorem test_jm_not_taken :
    after [0xFA, 0x34, 0x12] ({ start with flags := ⟨false, true, true, true⟩ }) (fun t => t.pc) =
      some (0x0103#16) := by decide

/-- 95_test_vectors.md 2.7. -/
theorem test_mov_h_l :
    after [0x65] ({ start with h := 0x99, l := 0x12 }) (fun t => (t.h, t.l, t.pc)) =
      some (0x12, 0x12, 0x0101#16) := by decide

/-- 95_test_vectors.md 2.7. -/
theorem test_mov_m_h :
    after [0x74] ({ start with h := 0x20, l := 0x01 }) (fun t => (Memory.lookup t.mem 0x2001, t.h)) =
      some (some 0x20#8, 0x20) := by decide

/-- 95_test_vectors.md 2.7. -/
theorem test_mvi_d :
    after [0x16, 0x9C] (start) (fun t => (t.d, t.pc)) =
      some (0x9C, 0x0102#16) := by decide

/-- 95_test_vectors.md 2.7. -/
theorem test_mvi_m :
    after [0x36, 0xFF] ({ start with h := 0x12, l := 0x34 }) (fun t => (Memory.lookup t.mem 0x1234, t.pc)) =
      some (some 0xFF#8, 0x0102#16) := by decide

/-- 95_test_vectors.md 2.7. -/
theorem test_lxi_h :
    after [0x21, 0xCD, 0xAB] (start) (fun t => (t.h, t.l, t.pc)) =
      some (0xAB, 0xCD, 0x0103#16) := by decide

/-- 95_test_vectors.md 2.7. -/
theorem test_lxi_sp :
    after [0x31, 0x00, 0xF0] (start) (fun t => t.sp) =
      some (0xF000#16) := by decide

/-- 95_test_vectors.md 2.7. -/
theorem test_lda :
    after [0x3A, 0x50, 0x00] ((start).load 0x0050 [0x77]) (fun t => (t.a, t.pc)) =
      some (0x77, 0x0103#16) := by decide

/-- 95_test_vectors.md 2.7. -/
theorem test_sta :
    after [0x32, 0xFF, 0xFF] ({ start with a := 0x42 }) (fun t => (Memory.lookup t.mem 0xFFFF, t.pc)) =
      some (some 0x42#8, 0x0103#16) := by decide

/-- 95_test_vectors.md 2.8, SP moved up by 0x0100. -/
theorem test_pop_psw :
    after [0xF1] ({ start with a := 0x9A, flags := ⟨true, false, true, true⟩, sp := 0x0200 }) (fun t => (Memory.lookup t.mem 0x01FF, Memory.lookup t.mem 0x01FE, t.sp)) =
      some (some 0x9A#8, some 0x85#8, 0x01FE#16) := by decide

/-- 95_test_vectors.md 2.8. -/
theorem test_pop_h_wraps :
    after [0xE1] ({ start with h := 0xAB, l := 0xCD, sp := 0x0001 }) (fun t => (Memory.lookup t.mem 0x0000, Memory.lookup t.mem 0xFFFF, t.sp)) =
      some (some 0xAB#8, some 0xCD#8, 0xFFFF#16) := by decide

/-- 95_test_vectors.md 2.8. -/
theorem test_push_d :
    after [0xD5] (({ start with sp := 0x00FE }).load 0x00FE [0x78, 0x56]) (fun t => (t.d, t.e, t.sp)) =
      some (0x56, 0x78, 0x0100#16) := by decide

/-- 95_test_vectors.md 2.8. -/
theorem test_push_psw :
    after [0xF5] (({ start with sp := 0x00FE, flags := ⟨true, true, true, true⟩ }).load 0x00FE [0x3A, 0x3C]) (fun t => (t.a, t.flags, t.sp)) =
      some (0x3C, ⟨false, false, false, false⟩, 0x0100#16) := by decide

/-- 95_test_vectors.md 2.9. -/
theorem test_call_wraps :
    after [0xCD, 0x10, 0x00] ({ start with pc := 0xFFFE#16, sp := 0x8000 }) (fun t => (Memory.lookup t.mem 0x7FFF, Memory.lookup t.mem 0x7FFE, t.sp, t.pc)) =
      some (some 0x00#8, some 0x01#8, 0x7FFE#16, 0x0010#16) := by decide

/-- 44_stack.md R215 to R222, at 0x0100. -/
theorem test_cnz_taken :
    after [0xC4, 0x10, 0x00] ({ start with flags := ⟨true, false, true, true⟩, sp := 0x0200 }) (fun t => (t.pc, t.sp, Memory.lookup t.mem 0x01FF, Memory.lookup t.mem 0x01FE)) =
      some (0x0010#16, 0x01FE#16, some 0x01#8, some 0x03#8) := by decide

/-- 44_stack.md R215 to R222, at 0x0100. -/
theorem test_cnz_not_taken :
    after [0xC4, 0x10, 0x00] ({ start with flags := ⟨false, true, false, false⟩, sp := 0x0200 }) (fun t => (t.pc, t.sp)) =
      some (0x0103#16, 0x0200#16) := by decide

/-- 44_stack.md R215 to R222, at 0x0100. -/
theorem test_cz_taken :
    after [0xCC, 0x10, 0x00] ({ start with flags := ⟨false, true, false, false⟩, sp := 0x0200 }) (fun t => (t.pc, t.sp, Memory.lookup t.mem 0x01FF, Memory.lookup t.mem 0x01FE)) =
      some (0x0010#16, 0x01FE#16, some 0x01#8, some 0x03#8) := by decide

/-- 44_stack.md R215 to R222, at 0x0100. -/
theorem test_cz_not_taken :
    after [0xCC, 0x10, 0x00] ({ start with flags := ⟨true, false, true, true⟩, sp := 0x0200 }) (fun t => (t.pc, t.sp)) =
      some (0x0103#16, 0x0200#16) := by decide

/-- 44_stack.md R215 to R222, at 0x0100. -/
theorem test_cnc_taken :
    after [0xD4, 0x10, 0x00] ({ start with flags := ⟨true, true, true, false⟩, sp := 0x0200 }) (fun t => (t.pc, t.sp, Memory.lookup t.mem 0x01FF, Memory.lookup t.mem 0x01FE)) =
      some (0x0010#16, 0x01FE#16, some 0x01#8, some 0x03#8) := by decide

/-- 44_stack.md R215 to R222, at 0x0100. -/
theorem test_cnc_not_taken :
    after [0xD4, 0x10, 0x00] ({ start with flags := ⟨false, false, false, true⟩, sp := 0x0200 }) (fun t => (t.pc, t.sp)) =
      some (0x0103#16, 0x0200#16) := by decide

/-- 44_stack.md R215 to R222, at 0x0100. -/
theorem test_cc_taken :
    after [0xDC, 0x10, 0x00] ({ start with flags := ⟨false, false, false, true⟩, sp := 0x0200 }) (fun t => (t.pc, t.sp, Memory.lookup t.mem 0x01FF, Memory.lookup t.mem 0x01FE)) =
      some (0x0010#16, 0x01FE#16, some 0x01#8, some 0x03#8) := by decide

/-- 44_stack.md R215 to R222, at 0x0100. -/
theorem test_cc_not_taken :
    after [0xDC, 0x10, 0x00] ({ start with flags := ⟨true, true, true, false⟩, sp := 0x0200 }) (fun t => (t.pc, t.sp)) =
      some (0x0103#16, 0x0200#16) := by decide

/-- 44_stack.md R215 to R222, at 0x0100. -/
theorem test_cpo_taken :
    after [0xE4, 0x10, 0x00] ({ start with flags := ⟨true, true, false, true⟩, sp := 0x0200 }) (fun t => (t.pc, t.sp, Memory.lookup t.mem 0x01FF, Memory.lookup t.mem 0x01FE)) =
      some (0x0010#16, 0x01FE#16, some 0x01#8, some 0x03#8) := by decide

/-- 44_stack.md R215 to R222, at 0x0100. -/
theorem test_cpo_not_taken :
    after [0xE4, 0x10, 0x00] ({ start with flags := ⟨false, false, true, false⟩, sp := 0x0200 }) (fun t => (t.pc, t.sp)) =
      some (0x0103#16, 0x0200#16) := by decide

/-- 44_stack.md R215 to R222, at 0x0100. -/
theorem test_cpe_taken :
    after [0xEC, 0x10, 0x00] ({ start with flags := ⟨false, false, true, false⟩, sp := 0x0200 }) (fun t => (t.pc, t.sp, Memory.lookup t.mem 0x01FF, Memory.lookup t.mem 0x01FE)) =
      some (0x0010#16, 0x01FE#16, some 0x01#8, some 0x03#8) := by decide

/-- 44_stack.md R215 to R222, at 0x0100. -/
theorem test_cpe_not_taken :
    after [0xEC, 0x10, 0x00] ({ start with flags := ⟨true, true, false, true⟩, sp := 0x0200 }) (fun t => (t.pc, t.sp)) =
      some (0x0103#16, 0x0200#16) := by decide

/-- 44_stack.md R215 to R222, at 0x0100. -/
theorem test_cp_taken :
    after [0xF4, 0x10, 0x00] ({ start with flags := ⟨false, true, true, true⟩, sp := 0x0200 }) (fun t => (t.pc, t.sp, Memory.lookup t.mem 0x01FF, Memory.lookup t.mem 0x01FE)) =
      some (0x0010#16, 0x01FE#16, some 0x01#8, some 0x03#8) := by decide

/-- 44_stack.md R215 to R222, at 0x0100. -/
theorem test_cp_not_taken :
    after [0xF4, 0x10, 0x00] ({ start with flags := ⟨true, false, false, false⟩, sp := 0x0200 }) (fun t => (t.pc, t.sp)) =
      some (0x0103#16, 0x0200#16) := by decide

/-- 44_stack.md R215 to R222, at 0x0100. -/
theorem test_cm_taken :
    after [0xFC, 0x10, 0x00] ({ start with flags := ⟨true, false, false, false⟩, sp := 0x0200 }) (fun t => (t.pc, t.sp, Memory.lookup t.mem 0x01FF, Memory.lookup t.mem 0x01FE)) =
      some (0x0010#16, 0x01FE#16, some 0x01#8, some 0x03#8) := by decide

/-- 44_stack.md R215 to R222, at 0x0100. -/
theorem test_cm_not_taken :
    after [0xFC, 0x10, 0x00] ({ start with flags := ⟨false, true, true, true⟩, sp := 0x0200 }) (fun t => (t.pc, t.sp)) =
      some (0x0103#16, 0x0200#16) := by decide

/-- 95_test_vectors.md 2.9. -/
theorem test_ret :
    after [0xC9] (({ start with sp := 0x0FFE }).load 0x0FFE [0x03, 0x02]) (fun t => (t.pc, t.sp)) =
      some (0x0203#16, 0x1000#16) := by decide

/-- 44_stack.md R224 to R231. -/
theorem test_rnz_taken :
    after [0xC0] (({ start with flags := ⟨true, false, true, true⟩, sp := 0x0FFE }).load 0x0FFE [0x03, 0x02]) (fun t => (t.pc, t.sp)) =
      some (0x0203#16, 0x1000#16) := by decide

/-- 44_stack.md R224 to R231. -/
theorem test_rnz_not_taken :
    after [0xC0] ({ start with flags := ⟨false, true, false, false⟩, sp := 0x0FFE }) (fun t => (t.pc, t.sp)) =
      some (0x0101#16, 0x0FFE#16) := by decide

/-- 44_stack.md R224 to R231. -/
theorem test_rz_taken :
    after [0xC8] (({ start with flags := ⟨false, true, false, false⟩, sp := 0x0FFE }).load 0x0FFE [0x03, 0x02]) (fun t => (t.pc, t.sp)) =
      some (0x0203#16, 0x1000#16) := by decide

/-- 44_stack.md R224 to R231. -/
theorem test_rz_not_taken :
    after [0xC8] ({ start with flags := ⟨true, false, true, true⟩, sp := 0x0FFE }) (fun t => (t.pc, t.sp)) =
      some (0x0101#16, 0x0FFE#16) := by decide

/-- 44_stack.md R224 to R231. -/
theorem test_rnc_taken :
    after [0xD0] (({ start with flags := ⟨true, true, true, false⟩, sp := 0x0FFE }).load 0x0FFE [0x03, 0x02]) (fun t => (t.pc, t.sp)) =
      some (0x0203#16, 0x1000#16) := by decide

/-- 44_stack.md R224 to R231. -/
theorem test_rnc_not_taken :
    after [0xD0] ({ start with flags := ⟨false, false, false, true⟩, sp := 0x0FFE }) (fun t => (t.pc, t.sp)) =
      some (0x0101#16, 0x0FFE#16) := by decide

/-- 44_stack.md R224 to R231. -/
theorem test_rc_taken :
    after [0xD8] (({ start with flags := ⟨false, false, false, true⟩, sp := 0x0FFE }).load 0x0FFE [0x03, 0x02]) (fun t => (t.pc, t.sp)) =
      some (0x0203#16, 0x1000#16) := by decide

/-- 44_stack.md R224 to R231. -/
theorem test_rc_not_taken :
    after [0xD8] ({ start with flags := ⟨true, true, true, false⟩, sp := 0x0FFE }) (fun t => (t.pc, t.sp)) =
      some (0x0101#16, 0x0FFE#16) := by decide

/-- 44_stack.md R224 to R231. -/
theorem test_rpo_taken :
    after [0xE0] (({ start with flags := ⟨true, true, false, true⟩, sp := 0x0FFE }).load 0x0FFE [0x03, 0x02]) (fun t => (t.pc, t.sp)) =
      some (0x0203#16, 0x1000#16) := by decide

/-- 44_stack.md R224 to R231. -/
theorem test_rpo_not_taken :
    after [0xE0] ({ start with flags := ⟨false, false, true, false⟩, sp := 0x0FFE }) (fun t => (t.pc, t.sp)) =
      some (0x0101#16, 0x0FFE#16) := by decide

/-- 44_stack.md R224 to R231. -/
theorem test_rpe_taken :
    after [0xE8] (({ start with flags := ⟨false, false, true, false⟩, sp := 0x0FFE }).load 0x0FFE [0x03, 0x02]) (fun t => (t.pc, t.sp)) =
      some (0x0203#16, 0x1000#16) := by decide

/-- 44_stack.md R224 to R231. -/
theorem test_rpe_not_taken :
    after [0xE8] ({ start with flags := ⟨true, true, false, true⟩, sp := 0x0FFE }) (fun t => (t.pc, t.sp)) =
      some (0x0101#16, 0x0FFE#16) := by decide

/-- 44_stack.md R224 to R231. -/
theorem test_rp_taken :
    after [0xF0] (({ start with flags := ⟨false, true, true, true⟩, sp := 0x0FFE }).load 0x0FFE [0x03, 0x02]) (fun t => (t.pc, t.sp)) =
      some (0x0203#16, 0x1000#16) := by decide

/-- 44_stack.md R224 to R231. -/
theorem test_rp_not_taken :
    after [0xF0] ({ start with flags := ⟨true, false, false, false⟩, sp := 0x0FFE }) (fun t => (t.pc, t.sp)) =
      some (0x0101#16, 0x0FFE#16) := by decide

/-- 44_stack.md R224 to R231. -/
theorem test_rm_taken :
    after [0xF8] (({ start with flags := ⟨true, false, false, false⟩, sp := 0x0FFE }).load 0x0FFE [0x03, 0x02]) (fun t => (t.pc, t.sp)) =
      some (0x0203#16, 0x1000#16) := by decide

/-- 44_stack.md R224 to R231. -/
theorem test_rm_not_taken :
    after [0xF8] ({ start with flags := ⟨false, true, true, true⟩, sp := 0x0FFE }) (fun t => (t.pc, t.sp)) =
      some (0x0101#16, 0x0FFE#16) := by decide

/-- 95_test_vectors.md 2.10. -/
theorem test_hlt :
    after [0x76] ({ start with pc := 0x000E#16 }) (fun t => (t.halted, t.pc)) =
      some (true, 0x000F#16) := by decide

/-- 95_test_vectors.md 2.10. -/
theorem test_out :
    after [0xD3, 0x03] ({ start with a := 0x5A }) (fun t => (t.trace, t.a, t.pc)) =
      some ([.output 0x03 0x5A], 0x5A, 0x0102#16) := by decide

/-- 95_test_vectors.md 2.10. -/
theorem test_nop :
    after [0x00] ({ start with flags := ⟨true, true, true, true⟩ }) (fun t => (t.pc, t.flags)) =
      some (0x0101#16, ⟨true, true, true, true⟩) := by decide

/-- 45_other.md R251: A takes the byte of the environment, whatever it is. -/
theorem test_in :
    exec (.inPort 0x01) start = .next { start with
      a := Config.portIn 0 [] 0x01, trace := [.input 0x01 (Config.portIn 0 [] 0x01)], pc := 0x0102 } := rfl

/-- 10_state.md R25. -/
theorem test_halted_stays : step { start with halted := true } = .next { start with halted := true } := rfl

/-- 60_exceptions.md R261. -/
theorem test_unassigned_byte_faults : faultOf [0xDD] start = some (.illegalOpcode 0x0100 0xDD) := by decide

/-- 60_exceptions.md R261: MOV A,M at a cell nobody wrote. -/
theorem test_unset_cell_faults : faultOf [0x7E] { start with h := 0x20 } = some (.unsetRead 0x2000) := by decide

/-- 60_exceptions.md R261: STA to ROM. -/
theorem test_store_to_rom_faults :
    faultOf [0x32, 0x00, 0x20]
      { start with cfg := { Config.standard with memMap := [{ base := 0x2000, size := 1, kind := .rom }] } } =
      some (.unmappedAccess 0x2000) := by decide

/-- 60_exceptions.md R261, 44_stack.md R214: the byte above is the first written. -/
theorem test_call_onto_rom_faults :
    faultOf [0xCD, 0x00, 0x20]
      { start with cfg := { Config.standard with memMap := [{ base := 0xFFFE, size := 2, kind := .rom }] } } =
      some (.unmappedAccess 0xFFFF) := by decide

/-- 20_memory.md R47, 92_eei_decisions.md D31: under draw an unset cell reads the same at another step. -/
theorem test_drawn_cell_is_fixed :
    memRead { start with cfg := { Config.standard with unset := .draw }, tick := 7 } 0x2000 =
      memRead { start with cfg := { Config.standard with unset := .draw } } 0x2000 := rfl

/-- 44_stack.md R211: under intel8085 0xC1 loads. -/
theorem test_pop_under_intel8085_loads :
    after [0xC1] (({ start with sp := 0x8000, cfg := { Config.standard with stackSense := .intel8085 } }).load
      0x8000 [0x34, 0x12]) (fun t => (t.b, t.c, t.sp)) = some (0x12, 0x34, 0x8002) := by decide

/-! ### Witnesses: a state and operands that meet the hypotheses of each obligation that has any -/

/-- Bytes that a state holds from an address on, up to three of them. -/
theorem bytesAt_of_reads {s : State} {addr : Word} {bs : List Byte} (hl : bs.length ≤ 3)
    (h : ∀ n < 3, ∀ v, bs[n]? = some v → memRead s (addr + BitVec.ofNat 16 n) = .ok v) :
    BytesAt s addr bs := by
  intro n v hv
  have := (List.getElem?_eq_some_iff.mp hv).1
  exact h n (by omega) v hv

/-- RAM everywhere; code, data and a stack word at the two ends of the space: HL is 0xFFFF and SP is 0x0001, so that a
stack load reads 0x0001 and 0x0002 and a stack store writes 0x0000 and 0xFFFF. -/
def edge : State :=
  { start with
    h := 0xFF, l := 0xFF, sp := 0x0001
    mem := [(0x0001, 0x34), (0x0002, 0x12), (0x0100, 0xC3), (0x0101, 0x00), (0x0102, 0x01), (0xFFFF, 0xFF)] }

/-- As `edge`, with one cell of another kind. -/
def edgeWith (base : Nat) (kind : CellKind) : State :=
  { edge with cfg := { Config.standard with memMap := [{ base := base, size := 1, kind := kind }] } }

/-- As `edge`, a cell nobody wrote reading as a free byte. -/
def drawing : State := { edge with cfg := { Config.standard with unset := .draw, logicCarry := .draw } }

/-- As `edge`, under the other sense of POP and PUSH. -/
def intel : State := { edge with cfg := { Config.standard with stackSense := .intel8085 } }

theorem witness_DecodeOfEncodeIsTheInstruction : (Instr.mov .m (.reg .a)).wellFormed = true := by decide

theorem witness_EncodeOfDecodeIsTheBytes : decode [0xC3, 0x00, 0x01, 0x76] = .ok (.jmp 0x0100, [0x76]) := rfl

theorem witness_OpcodeAloneDecidesTheLength :
    (0xFE : Byte) ∉ unassignedBytes ∧ (0xFE : Byte) ∈ twoByteOpcodes ∧
      (0xFC : Byte) ∉ unassignedBytes ∧ (0xFC : Byte) ∈ threeByteOpcodes ∧
      (0x00 : Byte) ∉ unassignedBytes ∧ (0x00 : Byte) ∉ twoByteOpcodes ∧ (0x00 : Byte) ∉ threeByteOpcodes := by decide

theorem witness_UnassignedOpcodeIsAFault :
    edge.halted = false ∧ memRead { edge with pc := 0xFFFF } 0xFFFF = .ok 0xFF ∧ (0xFF : Byte) ∈ unassignedBytes ∧
      memRead edge edge.pc = .ok 0xC3 ∧ (0xC3 : Byte) ∉ unassignedBytes :=
  ⟨rfl, rfl, by decide, rfl, by decide⟩

theorem witness_StepRunsTheDecodedInstruction :
    edge.halted = false ∧ BytesAt edge edge.pc [0xC3, 0x00, 0x01] ∧
      decode [0xC3, 0x00, 0x01] = .ok (.jmp 0x0100, []) := by
  refine ⟨rfl, bytesAt_of_reads (by decide) ?_, rfl⟩
  intro n hn v hv
  match n, hn with
  | 0, _ | 1, _ | 2, _ => cases hv; rfl

theorem witness_StepRunsTheEncodedInstruction :
    (Instr.jmp 0x0100).wellFormed = true ∧ edge.halted = false ∧ BytesAt edge edge.pc (encode (.jmp 0x0100)) :=
  ⟨rfl, rfl, witness_StepRunsTheDecodedInstruction.2.1⟩

/-- No opcode, an opcode with no operand byte, an opcode with one of two operand bytes. -/
theorem witness_FetchFaultsInOrder :
    edge.halted = false ∧
      memRead { edge with pc := 0x0003 } 0x0003 = .error (.unsetRead 0x0003) ∧
      (memRead { edge with mem := [(0x0100, 0xDB)] } 0x0100 = .ok 0xDB ∧ (0xDB : Byte) ∈ twoByteOpcodes ∧
        memRead { edge with mem := [(0x0100, 0xDB)] } 0x0101 = .error (.unsetRead 0x0101)) ∧
      (memRead { edge with mem := [(0x0100, 0xC4)] } 0x0100 = .ok 0xC4 ∧ (0xC4 : Byte) ∈ threeByteOpcodes ∧
        memRead { edge with mem := [(0x0100, 0xC4)] } 0x0101 = .error (.unsetRead 0x0101)) ∧
      (memRead { edge with mem := [(0x0100, 0xC4), (0x0101, 0x00)] } 0x0101 = .ok 0x00 ∧
        memRead { edge with mem := [(0x0100, 0xC4), (0x0101, 0x00)] } 0x0102 = .error (.unsetRead 0x0102)) :=
  ⟨rfl, rfl, ⟨rfl, by decide, rfl⟩, ⟨rfl, by decide, rfl⟩, rfl, rfl⟩

theorem witness_HaltedMachineStaysAsItIs : ({ edge with halted := true } : State).halted = true := rfl

/-- MVI M at 0x0000 writes the cell at 0xFFFF. -/
theorem witness_StepKeepsMemoryCanonical :
    Safety.MemoryCanonical { edge with mem := [(0x0000, 0x36), (0x0001, 0x55)], pc := 0x0000 } ∧
      step { edge with mem := [(0x0000, 0x36), (0x0001, 0x55)], pc := 0x0000 } =
        .next { edge with mem := [(0x0000, 0x36), (0x0001, 0x55), (0xFFFF, 0x55)], pc := 0x0002, tick := 1 } :=
  ⟨⟨by decide, by decide⟩, rfl⟩

theorem witness_WriteThenReadGivesTheByte : edge.cellKind 0xFFFF = .ram ∧ edge.cellKind 0x0000 = .ram := by decide

theorem witness_MemMapGuardsAccesses :
    (edgeWith 0xFFFF .rom).cellKind 0xFFFF ≠ .ram ∧ (edgeWith 0xFFFF .rom).cellKind 0xFFFF ≠ .absent ∧
      (edgeWith 0x0000 .absent).cellKind 0x0000 = .absent ∧ (edgeWith 0x0000 .absent).cellKind 0x0001 ≠ .absent := by
  decide

theorem witness_UnsetCellReadsAsTheParameterSays :
    edge.cellKind 0xFFFE ≠ .absent ∧ Memory.lookup edge.mem 0xFFFE = none ∧ edge.cfg.unset = .faultOnRead ∧
      drawing.cellKind 0xFFFE ≠ .absent ∧ Memory.lookup drawing.mem 0xFFFE = none ∧ drawing.cfg.unset = .draw := by
  decide

/-- The step reads its three bytes again afterwards, and a cell nobody wrote as the same free byte. -/
theorem witness_ReadsStayTheSameUntilAWrite :
    (Instr.jmp 0x0100).wellFormed = true ∧ BytesAt edge edge.pc (encode (.jmp 0x0100)) ∧
      step edge = .next { edge with tick := 1 } ∧ (0xFFFF : Word) ∉ storedAddresses edge (.jmp 0x0100) :=
  ⟨rfl, witness_StepRunsTheDecodedInstruction.2.1, rfl, by decide⟩

/-- A step beside a ROM cell. -/
theorem witness_OnlyRamCellsChange :
    step (edgeWith 0xFFFF .rom) = .next { edgeWith 0xFFFF .rom with tick := 1 } ∧
      (edgeWith 0xFFFF .rom).cellKind 0xFFFF ≠ .ram := ⟨rfl, by decide⟩

theorem witness_MemoryChangesOnlyWhereStored :
    exec (.sta 0xFFFF) edge = .next { edge with
      mem := [(0x0001, 0x34), (0x0002, 0x12), (0x0100, 0xC3), (0x0101, 0x00), (0x0102, 0x01), (0xFFFF, 0x00)],
      pc := 0x0103 } ∧
      (0xFFFE : Word) ∉ storedAddresses edge (.sta 0xFFFF) ∧ (0x0000 : Word) ∉ storedAddresses edge (.sta 0xFFFF) :=
  ⟨rfl, by decide, by decide⟩

theorem witness_StepKeepsParametersAndTrace :
    step edge = .next { edge with tick := 1 } ∧ edge.halted = false := ⟨rfl, rfl⟩

theorem witness_FlagsChangeOnlyWhereListed :
    exec .stc edge = .next { edge with flags := ⟨false, false, false, true⟩, pc := 0x0101 } ∧
      writesSzp edge .stc = false ∧
      exec (.inr (.reg .b)) edge = .next { edge with b := 0x01, pc := 0x0101 } ∧
      writesCarry edge (.inr (.reg .b)) = false := ⟨rfl, rfl, rfl, rfl⟩

theorem witness_RegistersChangeOnlyWhereListed :
    exec (.lxi .bc 0x1234) edge = .next { edge with b := 0x12, c := 0x34, pc := 0x0103 } ∧
      writesRegister edge .d (.lxi .bc 0x1234) = false ∧ writesSp edge (.lxi .bc 0x1234) = false := ⟨rfl, rfl, rfl⟩

theorem witness_OnlyHltHaltsAndOnlyPortsTrace :
    exec .nop edge = .next { edge with pc := 0x0101 } ∧ Instr.nop ≠ .hlt ∧
      ∀ p, Instr.nop ≠ .inPort p ∧ Instr.nop ≠ .outPort p :=
  ⟨rfl, by decide, fun _ => ⟨by simp, by simp⟩⟩

theorem witness_OutsideInAndOutTheTraceIsIgnored : ∀ p, Instr.ret ≠ .inPort p ∧ Instr.ret ≠ .outPort p :=
  fun _ => ⟨by simp, by simp⟩

/-- RAM everywhere, an unwritten cell reading as a free byte. -/
theorem witness_EveryInstructionCompletesWithMemoryPresent :
    (Instr.call 0xFFFF).wellFormed = true ∧ Safety.MemoryPresent { drawing with mem := [] } :=
  ⟨rfl, fun addr => ⟨rfl, Config.unsetByte addr, rfl⟩⟩

theorem witness_InstructionFaultsAreMemoryFaults :
    exec (.sta 0xFFFF) (edgeWith 0xFFFF .rom) = .fault (.unmappedAccess 0xFFFF) ∧
      exec (.lda 0xFFFE) edge = .fault (.unsetRead 0xFFFE) := ⟨rfl, rfl⟩

/-- The default map, and a map with one region that is RAM. -/
theorem witness_AllRamLeavesTwoFaults :
    (∀ addr, edge.cellKind addr = .ram) ∧ (∀ addr, (edgeWith 0xFFFF .ram).cellKind addr = .ram) ∧
      step { edge with pc := 0xFFFF } = .fault (.illegalOpcode 0xFFFF 0xFF) ∧
      step { edge with pc := 0x0003 } = .fault (.unsetRead 0x0003) :=
  ⟨fun _ => rfl, fun _ => ite_self _, rfl, rfl⟩

/-- Both sides of its equivalences arise. -/
theorem witness_MovMemoryToMemoryIsNoInstruction :
    (Instr.mov .m .m).wellFormed = false ∧ exec (.mov .m .m) edge = .refused .movMemoryToMemory := ⟨rfl, rfl⟩

/-- The cell at HL without a value, absent, or ROM; the cell named unset, ROM or absent. -/
theorem witness_MemoryFaultStopsTheInstruction :
    memRead { edge with l := 0xFE } 0xFFFE = .error (.unsetRead 0xFFFE) ∧
      memRead (edgeWith 0xFFFF .absent) 0xFFFF = .error (.unmappedAccess 0xFFFF) ∧
      memRead edge 0x0000 = .error (.unsetRead 0x0000) ∧
      (edgeWith 0x0000 .absent).cellKind 0x0000 ≠ .ram ∧
      (edgeWith 0xFFFF .rom).cellKind 0xFFFF = .rom ∧
      memRead (edgeWith 0xFFFF .rom) ((edgeWith 0xFFFF .rom).h ++ (edgeWith 0xFFFF .rom).l) = .ok 0xFF :=
  ⟨rfl, rfl, rfl, by decide, rfl, rfl⟩

theorem witness_AddAndAdcAddModulo256 :
    OperandIs { edge with a := 0x01 } .m 0xFF ∧ OperandIs edge (.reg .a) 0x00 := ⟨rfl, rfl⟩

theorem witness_SubAndSbbSubtractModulo256 :
    OperandIs edge .m 0xFF ∧ OperandIs edge (.reg .h) 0xFF := ⟨rfl, rfl⟩

theorem witness_CmpAndCpiSetOnlyFlags : OperandIs edge .m 0xFF ∧ OperandIs edge (.reg .b) 0x00 := ⟨rfl, rfl⟩

/-- Under clear with 0, and under draw with whatever the free bit is. -/
theorem witness_AnaXraOraAreBitwise :
    (OperandIs edge .m 0xFF ∧ edge.cfg.logicCarry = .clear ∧ edge.cfg.logicCarry ≠ .draw) ∧
      ∃ cy, OperandIs drawing (.reg .l) 0xFF ∧ drawing.cfg.logicCarry = .draw ∧ cy = Config.drawnCarry drawing.tick :=
  ⟨⟨rfl, rfl, by decide⟩, _, rfl, rfl, rfl⟩

/-- The carry 0 meets both hypotheses under clear, the free bit both under draw. -/
theorem witness_AniXriOriAreBitwise :
    (edge.cfg.logicCarry = .clear → false = false) ∧
      (edge.cfg.logicCarry = .draw → false = Config.drawnCarry edge.tick) ∧
      (drawing.cfg.logicCarry = .clear → Config.drawnCarry drawing.tick = false) :=
  ⟨fun _ => rfl, fun h => absurd h (by decide), fun h => absurd h (by decide)⟩

theorem witness_InrAddsOneAndKeepsCarry :
    OperandIs edge (.reg .h) 0xFF ∧ OperandIs edge .m 0xFF ∧ edge.cellKind (edge.h ++ edge.l) = .ram := ⟨rfl, rfl, rfl⟩

theorem witness_DcrSubtractsOneAndKeepsCarry :
    OperandIs edge (.reg .b) 0x00 ∧ OperandIs { edge with mem := [(0xFFFF, 0x00)] } .m 0x00 ∧
      edge.cellKind (edge.h ++ edge.l) = .ram := ⟨rfl, rfl, rfl⟩

theorem witness_MovToRegisterCopiesTheSource :
    OperandIs edge (.reg .h) 0xFF ∧ OperandIs edge .m 0xFF := ⟨rfl, rfl⟩

theorem witness_MovAndMviStoreAtHl : edge.cellKind (edge.h ++ edge.l) = .ram := rfl

theorem witness_LdaAndStaUseTheAddress :
    memRead edge 0xFFFF = .ok 0xFF ∧ edge.cellKind 0xFFFF = .ram := ⟨rfl, rfl⟩

/-- The store goes to 0x0000 and 0xFFFF. -/
theorem witness_PopStoresThePair :
    edge.cfg.stackSense = .source ∧ edge.cellKind (edge.sp - 1#16) = .ram ∧ edge.cellKind (edge.sp - 2#16) = .ram ∧
      edge.sp - 2#16 = 0xFFFF := by decide

theorem witness_PushLoadsThePair :
    edge.cfg.stackSense = .source ∧ memRead edge edge.sp = .ok 0x34 ∧
      memRead edge (edge.sp + 1#16) = .ok 0x12 := ⟨rfl, rfl, rfl⟩

theorem witness_StackSenseExchangesPopAndPush :
    edge.cfg.stackSense = .source ∧
      exec (.push .bc) edge = .next { edge with b := 0x12, c := 0x34, sp := 0x0003, pc := 0x0101 } ∧
      exec (.pop .bc) intel = .next { intel with b := 0x12, c := 0x34, sp := 0x0003, pc := 0x0101 } ∧
      ∀ rp, Instr.ret ≠ .pop rp ∧ Instr.ret ≠ .push rp :=
  ⟨rfl, rfl, rfl, fun _ => ⟨by simp, by simp⟩⟩

theorem witness_CallsSaveTheNextAddress :
    edge.cellKind (edge.sp - 1#16) = .ram ∧ edge.cellKind (edge.sp - 2#16) = .ram ∧
      decide (edge.flags.z = false) = true ∧ decide (edge.flags.z = true) = false := by decide

theorem witness_ReturnsLoadThePc :
    memRead edge edge.sp = .ok 0x34 ∧ memRead edge (edge.sp + 1#16) = .ok 0x12 ∧
      decide (edge.flags.cy = false) = true ∧ decide (edge.flags.cy = true) = false := ⟨rfl, rfl, rfl, rfl⟩

theorem witness_ReturnUndoesCall :
    edge.cellKind (edge.sp - 1#16) = .ram ∧ edge.cellKind (edge.sp - 2#16) = .ram := by decide

/-- PSW stored, A and the flags changed, then loaded. -/
theorem witness_PushAfterPopRestoresThePair :
    ∃ t v : State, edge.cfg.stackSense = .source ∧ exec (.pop .psw) edge = .next t ∧
      v.mem = t.mem ∧ v.cfg = t.cfg ∧ v.sp = t.sp ∧ v.a ≠ edge.a ∧ v.flags ≠ edge.flags :=
  ⟨_, { edge with
    a := 0xFF, flags := ⟨true, true, true, true⟩, sp := 0xFFFF, mem := Memory.insert (Memory.insert edge.mem 0 0) 0xFFFF 0 },
    rfl, rfl, rfl, rfl, rfl, by decide, by decide⟩

/-- A pair under both senses, CALL, and a conditional call taken: the first cell, then the second, cannot be written. -/
theorem witness_StackStoreFaultsInOrder :
    stackStores edge (.pop .psw) = true ∧ stackStores intel (.push .psw) = true ∧
      stackStores edge (.call 0x0000) = true ∧ stackStores edge (.cnz 0x0000) = true ∧
      stackStores edge (.cz 0x0000) = false ∧
      (edgeWith 0x0000 .rom).cellKind (edge.sp - 1#16) ≠ .ram ∧
      (edgeWith 0xFFFF .absent).cellKind (edge.sp - 1#16) = .ram ∧
      (edgeWith 0xFFFF .absent).cellKind (edge.sp - 2#16) ≠ .ram := by decide

/-- A pair under both senses, RET, and a conditional return taken: the first byte, then the second, cannot be read. -/
theorem witness_StackLoadFaultsInOrder :
    (stackLoads edge (.push .psw) = true ∧ stackLoads intel (.pop .psw) = true ∧ stackLoads edge .ret = true ∧
      stackLoads edge .rp = true ∧ stackLoads edge .rm = false) ∧
      memRead { edge with sp := 0x0000 } 0x0000 = .error (.unsetRead 0x0000) ∧
      memRead { edge with sp := 0xFFFF } 0xFFFF = .ok 0xFF ∧
      memRead { edge with sp := 0xFFFF } (0xFFFF + 1#16) = .error (.unsetRead 0x0000) :=
  ⟨by decide, rfl, rfl, rfl⟩

theorem witness_HltEndsTheRun : exec .hlt edge = .next { edge with halted := true, pc := 0x0101 } := rfl

theorem witness_EnvironmentResetStartsAtZero :
    Instr.hlt.wellFormed = true ∧ BytesAt { edge with mem := [(0x0000, 0x76)] } 0 (encode .hlt) := by
  refine ⟨rfl, bytesAt_of_reads (by decide) ?_⟩
  intro n hn v hv
  match n, hn with
  | 0, _ => cases hv; rfl
  | 1, _ | 2, _ => cases hv

end Sys2Proof.Tests
end

/-! The immediate forms of the accumulator's addition and subtraction (40_alu_accumulator.md R113 to R116):
the adder of R101 and the subtractor of R102 said in integers, then the state that a result and its carry give. -/

namespace Sys2Proof.Proofs.AluAccumulator

open Sys2Proof Sys2Proof.Machine Sys2Proof.Claims

/-! ### The adder and the subtractor in integers (R101, R102) -/

theorem toNat_bit9 (c : Bool) : (bit9 c).toNat = c.toNat := by
  cases c <;> rfl

/-- Nine bits hold the sum of two bytes and a carry: the adder itself never wraps. -/
theorem toNat_nineBitSum (a v : Byte) (c : Bool) :
    (a.zeroExtend 9 + v.zeroExtend 9 + bit9 c).toNat = a.toNat + v.toNat + c.toNat := by
  have ha := a.isLt
  have hv := v.isLt
  have hc := c.toNat_le
  simp only [BitVec.toNat_add, BitVec.truncate_eq_setWidth, BitVec.toNat_setWidth, toNat_bit9]
  omega

/-- AddC (R101): the sum modulo 256, and whether it passed 255. -/
theorem addC_eq (a v : Byte) (c : Bool) :
    addC a v c = (BitVec.ofNat 8 (a.toNat + v.toNat + c.toNat), decide (256 ≤ a.toNat + v.toNat + c.toNat)) := by
  have result : (addC a v c).1 = BitVec.ofNat 8 (a.toNat + v.toNat + c.toNat) := by
    apply BitVec.eq_of_toNat_eq
    simp only [addC, BitVec.extractLsb'_toNat, toNat_nineBitSum, BitVec.toNat_ofNat, Nat.shiftRight_zero]
  have carry : (addC a v c).2 = decide (256 ≤ a.toNat + v.toNat + c.toNat) := by
    rw [← toNat_nineBitSum]
    exact BitVec.msb_eq_decide (a.zeroExtend 9 + v.zeroExtend 9 + bit9 c)
  exact Prod.ext result carry

/-- SubB is the adder on the complement, its carry in and its carry out both complemented (R102). -/
theorem subB_eq_addC_not (a v : Byte) (b : Bool) :
    subB a v b = ((addC a (~~~v) (!b)).1, !(addC a (~~~v) (!b)).2) := rfl

/-- SubB (R102): the difference modulo 256, and whether it fell below 0. The adder's sum is 256 more than it. -/
theorem subB_eq (a v : Byte) (b : Bool) :
    subB a v b =
      (BitVec.ofInt 8 ((a.toNat : Int) - v.toNat - b.toNat), decide (a.toNat < v.toNat + b.toNat)) := by
  have hv := v.isLt
  have sum : ((a.toNat + (~~~v).toNat + (!b).toNat : Nat) : Int) = (a.toNat : Int) - v.toNat - b.toNat + 256 := by
    rw [BitVec.toNat_not]
    cases b <;> simp <;> omega
  have result : BitVec.ofNat 8 (a.toNat + (~~~v).toNat + (!b).toNat) =
      BitVec.ofInt 8 ((a.toNat : Int) - v.toNat - b.toNat) := by
    rw [← BitVec.ofInt_natCast, sum]
    apply BitVec.eq_of_toInt_eq
    simp only [BitVec.toInt_ofInt]
    exact Int.add_bmod_right _ _
  have borrow : (!decide (256 ≤ a.toNat + (~~~v).toNat + (!b).toNat)) = decide (a.toNat < v.toNat + b.toNat) := by
    rw [← decide_not, decide_eq_decide]
    omega
  rw [subB_eq_addC_not, addC_eq, result, borrow]

/-! ### The state that a result and its carry give (R100) -/

/-- The flags written by SZP and CY are those of the statements, whatever the flags were. -/
theorem setSzp_setCarry_eq_flagsOf (f : Flags) (r : Byte) (cy : Bool) :
    (f.setSzp r).setCarry cy = flagsOf r cy := by
  have sign : r.getLsbD 7 = decide (128 ≤ r.toNat) := BitVec.msb_eq_decide r
  have zero : (r == 0x00#8) = decide (r.toNat = 0) := by
    rw [Bool.eq_iff_iff, beq_iff_eq, decide_eq_true_iff, ← BitVec.toNat_inj]
    rfl
  have parity : (popcount r % 2 == 0) =
      decide (((List.range 8).filter fun i => r.getLsbD i).length % 2 = 0) := by
    rw [popcount, List.countP_eq_length_filter]
    rfl
  simp only [Flags.setSzp, Flags.setCarry, flagsOf, sign, zero, parity]

/-- A result and its carry into A and the flags, then pc past the instruction. -/
theorem advance_setAccumulator (s : State) (r : Byte) (cy : Bool) (len : Word) :
    (setAccumulator s (r, cy)).advance len = accumulatorSet s r cy len := by
  simp only [setAccumulator, State.advance, accumulatorSet, setSzp_setCarry_eq_flagsOf]

theorem advance_setAccumulator_addC (s : State) (v : Byte) (c : Bool) (len : Word) :
    (setAccumulator s (addC s.a v c)).advance len =
      accumulatorSet s (BitVec.ofNat 8 (s.a.toNat + v.toNat + c.toNat))
        (decide (256 ≤ s.a.toNat + v.toNat + c.toNat)) len := by
  rw [addC_eq, advance_setAccumulator]

theorem advance_setAccumulator_subB (s : State) (v : Byte) (b : Bool) (len : Word) :
    (setAccumulator s (subB s.a v b)).advance len =
      accumulatorSet s (BitVec.ofInt 8 ((s.a.toNat : Int) - v.toNat - b.toNat))
        (decide (s.a.toNat < v.toNat + b.toNat)) len := by
  rw [subB_eq, advance_setAccumulator]

/-! ### The immediate forms -/

theorem exec_adi (v : Byte) (s : State) :
    exec (.adi v) s = .next ((setAccumulator s (addC s.a v false)).advance 2#16) := rfl

theorem exec_aci (v : Byte) (s : State) :
    exec (.aci v) s = .next ((setAccumulator s (addC s.a v s.flags.cy)).advance 2#16) := rfl

theorem exec_sui (v : Byte) (s : State) :
    exec (.sui v) s = .next ((setAccumulator s (subB s.a v false)).advance 2#16) := rfl

theorem exec_sbi (v : Byte) (s : State) :
    exec (.sbi v) s = .next ((setAccumulator s (subB s.a v s.flags.cy)).advance 2#16) := rfl

/-- Settles O29: the immediate forms are the adder of R101 with carry in 0 (ADI) or CY (ACI). -/
theorem adiAndAciAddModulo256 : Obligations.AdiAndAciAddModulo256 := by
  intro s v
  refine ⟨rfl, ?adi, rfl, ?aci⟩
  case adi => simp [exec_adi, advance_setAccumulator_addC]
  case aci => rw [exec_aci, advance_setAccumulator_addC]

/-- Settles O31: the immediate forms are the subtractor of R102 with borrow in 0 (SUI) or CY (SBI). -/
theorem suiAndSbiSubtractModulo256 : Obligations.SuiAndSbiSubtractModulo256 := by
  intro s v
  refine ⟨rfl, ?sui, rfl, ?sbi⟩
  case sui => simp [exec_sui, advance_setAccumulator_subB]
  case sbi => rw [exec_sbi, advance_setAccumulator_subB]

end Sys2Proof.Proofs.AluAccumulator

/-! The complement of A and the two instructions that write only CY (41_alu_inc_rotate_pair.md R146 to R148):
`exec` of each, then the complements as the statements write them. -/

namespace Sys2Proof.Proofs.AluComplementCarry

open Sys2Proof Sys2Proof.Machine Sys2Proof.Claims

theorem exec_cma (s : State) : exec .cma s = .next ({ s with a := ~~~s.a }.advance 1#16) := rfl

theorem exec_stc (s : State) :
    exec .stc s = .next ({ s with flags := s.flags.setCarry true }.advance 1#16) := rfl

theorem exec_cmc (s : State) :
    exec .cmc s = .next ({ s with flags := s.flags.setCarry (!s.flags.cy) }.advance 1#16) := rfl

theorem not_eq_ofNat_sub (v : Byte) : ~~~v = BitVec.ofNat 8 (255 - v.toNat) := by
  have value : (~~~v).toNat = 255 - v.toNat := BitVec.toNat_not
  rw [← value, BitVec.ofNat_toNat, BitVec.setWidth_eq]

/-- Settles O40: A is complemented with no flag written (R146), CY is set (R147) or complemented (R148). -/
theorem cmaStcCmcResults : Obligations.CmaStcCmcResults := by
  intro s
  refine ⟨rfl, ?cma, rfl, ?stc, rfl, ?cmc⟩
  case cma => rw [exec_cma, not_eq_ofNat_sub, State.advance]
  case stc => rw [exec_stc, Flags.setCarry, State.advance]
  case cmc => rw [exec_cmc, Bool.decide_eq_false, Flags.setCarry, State.advance]

end Sys2Proof.Proofs.AluComplementCarry

/-! The immediate move to a register (43_memory_register.md R194): a register written by `State.setReg` is the only one
that changes, and `exec` of MVI is that write followed by the move of pc. -/

namespace Sys2Proof.Proofs.MoveImmediate

open Sys2Proof Sys2Proof.Machine Sys2Proof.Claims

theorem onlyRegister_advance_setReg (s : State) (r : Reg) (v : Byte) (len : Word) :
    OnlyRegister s ((s.setReg r v).advance len) r v := by
  intro q
  rw [State.reg_advance, State.reg_setReg]

theorem outsideRegistersSame_advance_setReg (s : State) (r : Reg) (v : Byte) (len : Word) :
    OutsideRegistersSame s ((s.setReg r v).advance len) := by
  simp [OutsideRegistersSame]

theorem exec_mvi_reg (r : Reg) (v : Byte) (s : State) :
    exec (.mvi (.reg r) v) s = .next ((s.setReg r v).advance 2#16) := rfl

/-- Settles O45: MVI to a register is one write of that register and pc + 2 (R194). -/
theorem mviLoadsTheRegister : Obligations.MviLoadsTheRegister := by
  intro s r v
  refine ⟨rfl, (s.setReg r v).advance 2#16, exec_mvi_reg r v s, onlyRegister_advance_setReg s r v 2#16,
    ?flags, ?sp, ?pc, outsideRegistersSame_advance_setReg s r v 2#16⟩
  case flags => rw [State.advance_flags, State.setReg_flags]
  case sp => rw [State.advance_sp, State.setReg_sp]
  case pc => rw [State.advance_pc, State.setReg_pc]

end Sys2Proof.Proofs.MoveImmediate

/-! The decoder and the encoder (30_encoding.md): the fields of an opcode byte, what each byte begins, and from these
the round trips and the lengths. -/

namespace Sys2Proof.Proofs.Encoding

open Sys2Proof Sys2Proof.Machine Sys2Proof.Claims

/-! ### The fields of an opcode byte (R62) -/

theorem group_opcode (g : BitVec 2) (mid low : BitVec 3) : (opcode g mid low).extractLsb' 6 2 = g := by
  revert g mid low; decide

theorem mid_opcode (g : BitVec 2) (mid low : BitVec 3) : (opcode g mid low).extractLsb' 3 3 = mid := by
  revert g mid low; decide

theorem low_opcode (g : BitVec 2) (mid low : BitVec 3) : (opcode g mid low).extractLsb' 0 3 = low := by
  revert g mid low; decide

theorem opcode_of_fields (b : Byte) :
    opcode (b.extractLsb' 6 2) (b.extractLsb' 3 3) (b.extractLsb' 0 3) = b := by
  revert b; decide

theorem pairOpcode_of_odd (g : BitVec 2) (mid low : BitVec 3) (h : mid.getLsbD 0 = true) :
    pairOpcode g (mid.extractLsb' 1 2) (1#1 ++ low) = opcode g mid low := by
  revert g mid low; decide

theorem pairOpcode_of_even (g : BitVec 2) (mid low : BitVec 3) (h : mid.getLsbD 0 = false) :
    pairOpcode g (mid.extractLsb' 1 2) (0#1 ++ low) = opcode g mid low := by
  revert g mid low; decide

/-- A three-bit field, value by value. -/
theorem threeBits (x : BitVec 3) :
    x = 0#3 ∨ x = 1#3 ∨ x = 2#3 ∨ x = 3#3 ∨ x = 4#3 ∨ x = 5#3 ∨ x = 6#3 ∨ x = 7#3 := by
  revert x; decide

theorem twoBits (x : BitVec 2) : x = 0#2 ∨ x = 1#2 ∨ x = 2#2 ∨ x = 3#2 := by
  revert x; decide

/-! ### What an opcode byte begins, group by group (R69 to R72) -/

theorem opcodeFormat_group0 (mid low : BitVec 3) :
    opcodeFormat (opcode 0b00#2 mid low) = formatGroup0 mid low := by
  simp only [opcodeFormat, group_opcode, mid_opcode, low_opcode]

theorem opcodeFormat_group1 (mid low : BitVec 3) :
    opcodeFormat (opcode 0b01#2 mid low) = if mid = 0b110#3 ∧ low = 0b110#3 then some (.f1 .hlt)
      else some (.f1 (.mov (operandOfCode mid) (operandOfCode low))) := by
  simp only [opcodeFormat, group_opcode, mid_opcode, low_opcode]

theorem opcodeFormat_group2 (mid low : BitVec 3) :
    opcodeFormat (opcode 0b10#2 mid low) = some (.f1 (aluRegister (operandOfCode low) mid)) := by
  simp only [opcodeFormat, group_opcode, mid_opcode, low_opcode]

theorem opcodeFormat_group3 (mid low : BitVec 3) :
    opcodeFormat (opcode 0b11#2 mid low) = formatGroup3 mid low := by
  simp only [opcodeFormat, group_opcode, mid_opcode, low_opcode]
  rfl

/-! ### The length an opcode byte decides (R61, R68, R78) -/

/-- The length of the instructions that a byte begins, `none` for an unassigned byte. -/
def opcodeLength (b : Byte) : Option Nat := (opcodeFormat b).map OpFormat.length

theorem mem_unassignedBytes_iff (b : Byte) : b ∈ unassignedBytes ↔ opcodeLength b = none := by
  have listed : unassignedBytes.all (fun b => opcodeLength b = none) = true := by decide
  have complete : ∀ b, opcodeLength b = none → b ∈ unassignedBytes := by decide
  exact ⟨fun h => of_decide_eq_true (List.all_eq_true.mp listed b h), complete b⟩

theorem mem_twoByteOpcodes_iff (b : Byte) : b ∈ twoByteOpcodes ↔ opcodeLength b = some 2 := by
  have listed : twoByteOpcodes.all (fun b => opcodeLength b = some 2) = true := by decide
  have complete : ∀ b, opcodeLength b = some 2 → b ∈ twoByteOpcodes := by decide
  exact ⟨fun h => of_decide_eq_true (List.all_eq_true.mp listed b h), complete b⟩

theorem mem_threeByteOpcodes_iff (b : Byte) : b ∈ threeByteOpcodes ↔ opcodeLength b = some 3 := by
  have listed : threeByteOpcodes.all (fun b => opcodeLength b = some 3) = true := by decide
  have complete : ∀ b, opcodeLength b = some 3 → b ∈ threeByteOpcodes := by decide
  exact ⟨fun h => of_decide_eq_true (List.all_eq_true.mp listed b h), complete b⟩

/-! ### The decoder, format by format -/

theorem decode_f1 {b : Byte} {i : Instr} (h : opcodeFormat b = some (.f1 i)) (rest : List Byte) :
    decode (b :: rest) = .ok (i, rest) := by
  simp only [decode, h]

theorem decode_f2 {b : Byte} {k : Byte → Instr} (h : opcodeFormat b = some (.f2 k)) (v : Byte) (rest : List Byte) :
    decode (b :: v :: rest) = .ok (k v, rest) := by
  simp only [decode, h]

theorem decode_f3 {b : Byte} {k : Word → Instr} (h : opcodeFormat b = some (.f3 k)) (lo hi : Byte)
    (rest : List Byte) : decode (b :: lo :: hi :: rest) = .ok (k (imm16 lo hi), rest) := by
  simp only [decode, h]

theorem decode_threeBytes {b : Byte} {k : Word → Instr} (h : opcodeFormat b = some (.f3 k)) (w : Word)
    (rest : List Byte) : decode (threeBytes b w ++ rest) = .ok (k w, rest) := by
  rw [← imm16_bytes w]
  simpa [threeBytes] using decode_f3 h (w.extractLsb' 0 8) (w.extractLsb' 8 8) rest

/-- Everything a decoding that gives an instruction says: the bytes it took, by format. -/
theorem decode_ok {bs rest : List Byte} {i : Instr} (h : decode bs = .ok (i, rest)) :
    (∃ b, bs = b :: rest ∧ opcodeFormat b = some (.f1 i)) ∨
      (∃ b v k, bs = b :: v :: rest ∧ opcodeFormat b = some (.f2 k) ∧ i = k v) ∨
      (∃ b lo hi k, bs = b :: lo :: hi :: rest ∧ opcodeFormat b = some (.f3 k) ∧ i = k (imm16 lo hi)) := by
  unfold decode at h
  split at h
  · cases h
  rename_i b bs
  split at h
  · cases h
  · rename_i j hf
    cases h
    exact .inl ⟨b, rfl, hf⟩
  · rename_i k hf
    split at h <;> cases h
    exact .inr (.inl ⟨b, _, k, rfl, hf, rfl⟩)
  · rename_i k hf
    split at h <;> cases h
    exact .inr (.inr ⟨b, _, _, k, rfl, hf, rfl⟩)

/-! ### From an instruction to its bytes and back -/

theorem opcodeFormat_alu (op : BitVec 3) (src : Operand) :
    opcodeFormat (opcode 0b10#2 op (operandCode src)) = some (.f1 (aluRegister src op)) := by
  rw [opcodeFormat_group2, operandOfCode_operandCode]

theorem operandCode_eq_m (o : Operand) : operandCode o = 0b110#3 ↔ o = .m := by
  constructor
  · intro h
    rw [← operandOfCode_operandCode o, h]; rfl
  · rintro rfl; rfl

theorem opcodeFormat_mov {dst src : Operand} (h : (Instr.mov dst src).wellFormed = true) :
    opcodeFormat (opcode 0b01#2 (operandCode dst) (operandCode src)) = some (.f1 (.mov dst src)) := by
  have notBothM : ¬ (operandCode dst = 0b110#3 ∧ operandCode src = 0b110#3) := by
    rw [operandCode_eq_m, operandCode_eq_m]
    rintro ⟨rfl, rfl⟩
    cases h
  rw [opcodeFormat_group1, if_neg notBothM, operandOfCode_operandCode, operandOfCode_operandCode]

theorem opcodeFormat_inr (dst : Operand) :
    opcodeFormat (opcode 0b00#2 (operandCode dst) 0b100#3) = some (.f1 (.inr dst)) := by
  simp [opcodeFormat_group0, formatGroup0]

theorem opcodeFormat_dcr (dst : Operand) :
    opcodeFormat (opcode 0b00#2 (operandCode dst) 0b101#3) = some (.f1 (.dcr dst)) := by
  simp [opcodeFormat_group0, formatGroup0]

theorem opcodeFormat_mvi (dst : Operand) :
    opcodeFormat (opcode 0b00#2 (operandCode dst) 0b110#3) = some (.f2 (.mvi dst)) := by
  simp [opcodeFormat_group0, formatGroup0]

/-- Settles O1. The constructors are taken by the form of their encoding: an operand field, a pair field, a fixed byte,
a byte and an operand of one or of two bytes. -/
theorem decodeOfEncodeIsTheInstruction : Obligations.DecodeOfEncodeIsTheInstruction := by
  intro i rest wf
  cases i with
  | add src | adc src | sub src | sbb src | ana src | xra src | ora src | cmp src =>
    exact decode_f1 (opcodeFormat_alu _ src) rest
  | mov dst src => exact decode_f1 (opcodeFormat_mov wf) rest
  | inr dst => exact decode_f1 (opcodeFormat_inr dst) rest
  | dcr dst => exact decode_f1 (opcodeFormat_dcr dst) rest
  | mvi dst imm => exact decode_f2 (opcodeFormat_mvi dst) imm rest
  | dad rp | inx rp | dcx rp => cases rp <;> rfl
  | pop rp | push rp => cases rp <;> rfl
  | lxi rp imm => cases rp <;> exact decode_threeBytes rfl imm rest
  | adi imm | aci imm | sui imm | sbi imm | ani imm | xri imm | ori imm | cpi imm => rfl
  | inPort port | outPort port => rfl
  | rlc | rrc | ral | rar | cma | stc | cmc => rfl
  | ret | rnz | rz | rnc | rc | rpo | rpe | rp | rm => rfl
  | hlt | nop => rfl
  | jmp w | jnz w | jz w | jnc w | jc w | jpo w | jpe w | jp w | jm w => exact decode_threeBytes rfl w rest
  | call w | cnz w | cz w | cnc w | cc w | cpo w | cpe w | cp w | cm w => exact decode_threeBytes rfl w rest
  | lda w | sta w => exact decode_threeBytes rfl w rest

/-! ### From the bytes to the instruction and back -/

theorem wellFormed_eq_false_iff (i : Instr) : i.wellFormed = false ↔ i = .mov .m .m := by
  constructor
  · intro ill
    unfold Instr.wellFormed at ill
    split at ill
    · rfl
    all_goals cases ill
  · rintro rfl; rfl

theorem wellFormed_of_ne {i : Instr} (h : i ≠ .mov .m .m) : i.wellFormed = true := by
  rw [← Bool.not_eq_false]
  exact fun ill => h ((wellFormed_eq_false_iff i).mp ill)

/-- The byte `b` and the operand bytes of its format are the encoding of the well-formed instruction they begin. -/
def EncodesAs (b : Byte) : OpFormat → Prop
  | .f1 i => i.wellFormed = true ∧ encode i = [b]
  | .f2 k => ∀ v, (k v).wellFormed = true ∧ encode (k v) = [b, v]
  | .f3 k => ∀ w, (k w).wellFormed = true ∧ encode (k w) = threeBytes b w

theorem encodesAs_aluRegister (op low : BitVec 3) :
    EncodesAs (opcode 0b10#2 op low) (.f1 (aluRegister (operandOfCode low) op)) := by
  have code := operandCode_operandOfCode low
  rcases threeBits op with rfl | rfl | rfl | rfl | rfl | rfl | rfl | rfl <;>
    exact ⟨rfl, congrArg (fun c => [opcode 0b10#2 _ c]) code⟩

theorem encodesAs_aluImmediate (op : BitVec 3) : EncodesAs (opcode 0b11#2 op 0b110#3) (.f2 (aluImmediate op)) := by
  intro v
  rcases threeBits op with rfl | rfl | rfl | rfl | rfl | rfl | rfl | rfl <;> exact ⟨rfl, rfl⟩

theorem encodesAs_condReturn (c : BitVec 3) :
    EncodesAs (opcode 0b11#2 c 0b000#3) (.f1 (condReturn (condOfCode c))) := by
  rcases threeBits c with rfl | rfl | rfl | rfl | rfl | rfl | rfl | rfl <;> exact ⟨rfl, rfl⟩

theorem encodesAs_condJump (c : BitVec 3) :
    EncodesAs (opcode 0b11#2 c 0b010#3) (.f3 fun w => condJump w (condOfCode c)) := by
  intro w
  rcases threeBits c with rfl | rfl | rfl | rfl | rfl | rfl | rfl | rfl <;> exact ⟨rfl, rfl⟩

theorem encodesAs_condCall (c : BitVec 3) :
    EncodesAs (opcode 0b11#2 c 0b100#3) (.f3 fun w => condCall w (condOfCode c)) := by
  intro w
  rcases threeBits c with rfl | rfl | rfl | rfl | rfl | rfl | rfl | rfl <;> exact ⟨rfl, rfl⟩

theorem encodesAs_mov {mid low : BitVec 3} (h : ¬ (mid = 0b110#3 ∧ low = 0b110#3)) :
    EncodesAs (opcode 0b01#2 mid low) (.f1 (.mov (operandOfCode mid) (operandOfCode low))) := by
  rw [← operandCode_operandOfCode mid, ← operandCode_operandOfCode low, operandCode_eq_m, operandCode_eq_m] at h
  have wf : (Instr.mov (operandOfCode mid) (operandOfCode low)).wellFormed = true :=
    wellFormed_of_ne fun e => h (Instr.mov.inj e)
  exact ⟨wf, by rw [encode, operandCode_operandOfCode, operandCode_operandOfCode]⟩

theorem formatGroup0_encodesAs {mid low : BitVec 3} {fmt : OpFormat} (h : formatGroup0 mid low = some fmt) :
    EncodesAs (opcode 0b00#2 mid low) fmt := by
  have code := operandCode_operandOfCode mid
  have pair := pairCode_pairOfCode (mid.extractLsb' 1 2)
  unfold formatGroup0 at h
  split at h
  · split at h <;> cases h
    subst mid
    exact ⟨rfl, rfl⟩
  · split at h <;> rename_i odd <;> cases h
    · exact ⟨rfl, by rw [encode, pair, ← pairOpcode_of_odd _ _ _ odd]; rfl⟩
    · intro w
      exact ⟨rfl, by rw [encode, pair, ← pairOpcode_of_even _ _ _ (by simpa using odd)]; rfl⟩
  · split at h
    · subst mid; cases h; exact fun w => ⟨rfl, rfl⟩
    · split at h <;> cases h
      subst mid
      exact fun w => ⟨rfl, rfl⟩
  · cases h
    split <;> rename_i odd
    · exact ⟨rfl, by rw [encode, pair, ← pairOpcode_of_odd _ _ _ odd]; rfl⟩
    · exact ⟨rfl, by rw [encode, pair, ← pairOpcode_of_even _ _ _ (by simpa using odd)]; rfl⟩
  · cases h; exact ⟨rfl, by rw [encode, code]⟩
  · cases h; exact ⟨rfl, by rw [encode, code]⟩
  · cases h; exact fun v => ⟨rfl, by rw [encode, code]⟩
  · have low_eq : low = 0b111#3 := by have := threeBits low; tauto
    subst low_eq
    split at h <;> cases h
    case h_8 =>
      have mid_eq : mid = 0b111#3 := by have := threeBits mid; tauto
      subst mid_eq
      exact ⟨rfl, rfl⟩
    all_goals exact ⟨rfl, rfl⟩

theorem formatGroup3_encodesAs {mid low : BitVec 3} {fmt : OpFormat} (h : formatGroup3 mid low = some fmt) :
    EncodesAs (opcode 0b11#2 mid low) fmt := by
  have pair := stackPairCode_stackPairOfCode (mid.extractLsb' 1 2)
  unfold formatGroup3 at h
  split at h
  · cases h; exact encodesAs_condReturn mid
  · split at h
    · split at h <;> cases h
      subst mid
      exact ⟨rfl, rfl⟩
    · rename_i even
      cases h
      exact ⟨rfl, by rw [encode, pair, ← pairOpcode_of_even _ _ _ (by simpa using even)]; rfl⟩
  · cases h; exact encodesAs_condJump mid
  · split at h <;> cases h
    · exact fun w => ⟨rfl, rfl⟩
    · exact fun v => ⟨rfl, rfl⟩
    · exact fun v => ⟨rfl, rfl⟩
  · cases h; exact encodesAs_condCall mid
  · split at h
    · split at h <;> cases h
      subst mid
      exact fun w => ⟨rfl, rfl⟩
    · rename_i even
      cases h
      exact ⟨rfl, by rw [encode, pair, ← pairOpcode_of_even _ _ _ (by simpa using even)]; rfl⟩
  · cases h; exact encodesAs_aluImmediate mid
  · cases h

theorem opcodeFormat_encodesAs {b : Byte} {fmt : OpFormat} (h : opcodeFormat b = some fmt) : EncodesAs b fmt := by
  rw [← opcode_of_fields b] at h ⊢
  generalize b.extractLsb' 6 2 = group, b.extractLsb' 3 3 = mid, b.extractLsb' 0 3 = low at h ⊢
  rcases twoBits group with rfl | rfl | rfl | rfl
  · rw [opcodeFormat_group0] at h
    exact formatGroup0_encodesAs h
  · rw [opcodeFormat_group1] at h
    split at h <;> cases h
    · rename_i hlt
      obtain ⟨rfl, rfl⟩ := hlt
      exact ⟨rfl, rfl⟩
    · rename_i notHlt
      exact encodesAs_mov notHlt
  · rw [opcodeFormat_group2] at h
    cases h
    exact encodesAs_aluRegister mid low
  · rw [opcodeFormat_group3] at h
    exact formatGroup3_encodesAs h

theorem threeBytes_imm16 (b lo hi : Byte) : threeBytes b (imm16 lo hi) = [b, lo, hi] := by
  have low : (hi ++ lo : Word).extractLsb' 0 8 = lo := lo8_append hi lo
  have high : (hi ++ lo : Word).extractLsb' 8 8 = hi := hi8_append hi lo
  rw [threeBytes, imm16, low, high]

/-- Settles O2, by the format of the byte that the decoder read first. -/
theorem encodeOfDecodeIsTheBytes : Obligations.EncodeOfDecodeIsTheBytes := by
  intro i bs rest h
  rcases decode_ok h with ⟨b, rfl, hf⟩ | ⟨b, v, k, rfl, hf, rfl⟩ | ⟨b, lo, hi, k, rfl, hf, rfl⟩
  · obtain ⟨wf, bytes⟩ := opcodeFormat_encodesAs hf
    exact ⟨wf, by rw [bytes]; rfl⟩
  · obtain ⟨wf, bytes⟩ := opcodeFormat_encodesAs hf v
    exact ⟨wf, by rw [bytes]; rfl⟩
  · obtain ⟨wf, bytes⟩ := opcodeFormat_encodesAs hf (imm16 lo hi)
    exact ⟨wf, by rw [bytes, threeBytes_imm16]; rfl⟩

/-! ### Lengths and written-out words -/

theorem opcodeFormat_ne_none {b : Byte} (h : b ∉ unassignedBytes) : opcodeFormat b ≠ none := by
  rw [mem_unassignedBytes_iff, opcodeLength, Option.map_eq_none_iff] at h
  exact h

/-- Settles O4: the length lists are the formats of the opcode map, and the decoder takes as many bytes as the format
has. -/
theorem opcodeAloneDecidesTheLength : Obligations.OpcodeAloneDecidesTheLength := by
  intro b x y more assigned
  simp only [mem_threeByteOpcodes_iff, mem_twoByteOpcodes_iff, opcodeLength]
  match hf : opcodeFormat b with
  | none => exact absurd hf (opcodeFormat_ne_none assigned)
  | some (.f1 i) => exact ⟨i, by simpa [OpFormat.length] using decode_f1 hf (x :: y :: more)⟩
  | some (.f2 k) => exact ⟨k x, by simpa [OpFormat.length] using decode_f2 hf x (y :: more)⟩
  | some (.f3 k) => exact ⟨k (imm16 x y), by simpa [OpFormat.length] using decode_f3 hf x y more⟩

/-- Settles O3: each word is read field by field from its own bits. -/
theorem writtenOutWordsDecode : Obligations.WrittenOutWordsDecode := by
  exact ⟨rfl, rfl, rfl, rfl, rfl, rfl, rfl, rfl, rfl, rfl, rfl, rfl, rfl, rfl, rfl⟩

end Sys2Proof.Proofs.Encoding

/-! What an instruction can answer: a next state, the fault of an access to memory, or, for the ill-formed MOV M,M alone,
a refusal (60_exceptions.md R261, 10_state.md R15). -/

namespace Sys2Proof.Proofs.InstructionAnswers

open Sys2Proof Sys2Proof.Machine Sys2Proof.Claims
open Sys2Proof.Proofs.Encoding

/-! ### One access (20_memory.md R40, R41) -/

theorem memRead_absent {s : State} {a : Word} (h : s.cellKind a = .absent) :
    memRead s a = .error (.unmappedAccess a) := by
  simp only [memRead, h]

theorem memRead_listed {s : State} {a : Word} {v : Byte} (hk : s.cellKind a ≠ .absent)
    (hv : Memory.lookup s.mem a.toNat = some v) : memRead s a = .ok v := by
  unfold memRead
  split
  · contradiction
  all_goals simp only [hv]

theorem memRead_unlisted {s : State} {a : Word} (hk : s.cellKind a ≠ .absent)
    (hv : Memory.lookup s.mem a.toNat = none) : memRead s a = readUnset s a := by
  unfold memRead
  split
  · contradiction
  all_goals simp only [hv]

theorem memWrite_not_ram {s : State} {a : Word} (v : Byte) (h : s.cellKind a ≠ .ram) :
    memWrite s a v = .error (.unmappedAccess a) := by
  unfold memWrite
  split
  · contradiction
  all_goals rfl

/-- Settles O13: a read of a present cell can only fault as unset. -/
theorem memMapGuardsAccesses : Obligations.MemMapGuardsAccesses := by
  intro s addr v
  refine ⟨memWrite_not_ram v, memRead_absent, fun present faulted => ?_⟩
  rcases memRead_error faulted with ⟨-, absent⟩ | ⟨unset, -⟩
  · exact present absent
  · cases unset

/-- Settles O14: a present cell without a value is `readUnset`, which looks at UNSET_STATE alone. -/
theorem unsetCellReadsAsTheParameterSays : Obligations.UnsetCellReadsAsTheParameterSays := by
  intro s addr present unlisted
  rw [memRead_unlisted present unlisted]
  constructor <;> intro policy <;> simp only [readUnset, policy]

/-! ### The faults of accesses -/

/-- The faults that a data access can raise in a state (R261). -/
def MemoryFault (s : State) (f : Fault) : Prop :=
  (∃ addr, f = .unmappedAccess addr ∧ s.cellKind addr ≠ .ram) ∨
  (∃ addr, f = .unsetRead addr ∧ s.cellKind addr ≠ .absent ∧ Memory.lookup s.mem addr.toNat = none ∧
    s.cfg.unset = .faultOnRead)

theorem memoryFault_of_memRead {s : State} {a : Word} {f : Fault} (h : memRead s a = .error f) : MemoryFault s f := by
  by_cases absent : s.cellKind a = .absent
  · rw [memRead_absent absent] at h
    cases h
    exact .inl ⟨a, rfl, by simp [absent]⟩
  · rcases memRead_error h with ⟨-, absent'⟩ | ⟨rfl, unlisted, policy⟩
    · contradiction
    · exact .inr ⟨a, rfl, absent, unlisted, policy⟩

theorem memoryFault_of_memWrite {s : State} {a : Word} {v : Byte} {f : Fault} (h : memWrite s a v = .error f) :
    MemoryFault s f :=
  .inl ⟨a, memWrite_error h⟩

theorem memoryFault_of_readOperand {s : State} {o : Operand} {f : Fault} (h : readOperand s o = .error f) :
    MemoryFault s f := by
  cases o with
  | reg r => cases h
  | m => exact memoryFault_of_memRead h

theorem memoryFault_of_writeOperand {s : State} {o : Operand} {v : Byte} {f : Fault}
    (h : writeOperand s o v = .error f) : MemoryFault s f := by
  cases o with
  | reg r => cases h
  | m => exact memoryFault_of_memWrite h

theorem memoryFault_of_stackStore {s : State} {w : Word} {f : Fault} (h : stackStore s w = .error f) :
    MemoryFault s f := by
  rcases stackStore_error h with ⟨rfl, notRam⟩ | ⟨rfl, -, notRam⟩ <;> exact .inl ⟨_, rfl, notRam⟩

theorem memoryFault_of_stackLoad {s : State} {f : Fault} (h : stackLoad s = .error f) : MemoryFault s f := by
  rcases stackLoad_error h with h | h <;> exact memoryFault_of_memRead h

/-! ### The answers of the shared operations and of every instruction -/

/-- A next state, or the fault of an access to memory; no refusal. -/
def Answers (s : State) : Result → Prop
  | .next _ => True
  | .fault f => MemoryFault s f
  | .refused _ => False

theorem answers_attempt {α : Type} {s : State} {r : Except Fault α} {k : α → Result}
    (hr : ∀ f, r = .error f → MemoryFault s f) (hk : ∀ v, Answers s (k v)) : Answers s (attempt r k) := by
  cases r with
  | ok v => exact hk v
  | error f => exact hr f rfl

theorem answers_withOperand (s : State) (src : Operand) (f : Byte → State) : Answers s (withOperand s src f) :=
  answers_attempt (fun _ => memoryFault_of_readOperand) fun _ => trivial

theorem answers_changeOperand (s : State) (dst : Operand) (f : Byte → Byte) : Answers s (changeOperand s dst f) :=
  answers_attempt (fun _ => memoryFault_of_readOperand) fun _ =>
    answers_attempt (fun _ => memoryFault_of_writeOperand) fun _ => trivial

theorem answers_storePair (s : State) (rp : StackPair) : Answers s (storePair s rp) :=
  answers_attempt (fun _ => memoryFault_of_stackStore) fun _ => trivial

theorem answers_loadPair (s : State) (rp : StackPair) : Answers s (loadPair s rp) :=
  answers_attempt (fun _ => memoryFault_of_stackLoad) fun _ => trivial

theorem answers_callTo (s : State) (w : Word) : Answers s (callTo s w) :=
  answers_attempt (fun _ => memoryFault_of_stackStore) fun _ => trivial

theorem answers_callIf (s : State) (cond : Cond) (w : Word) : Answers s (callIf s cond w) := by
  unfold callIf
  split
  · exact answers_callTo s w
  · trivial

theorem answers_returnNow (s : State) : Answers s (returnNow s) :=
  answers_attempt (fun _ => memoryFault_of_stackLoad) fun _ => trivial

theorem answers_returnIf (s : State) (cond : Cond) : Answers s (returnIf s cond) := by
  unfold returnIf
  split
  · exact answers_returnNow s
  · trivial

theorem answers_execMov {dst src : Operand} (s : State) (wf : (Instr.mov dst src).wellFormed = true) :
    Answers s (execMov dst src s) := by
  unfold execMov
  split
  · cases wf
  · exact answers_attempt (fun _ => memoryFault_of_writeOperand) fun _ => trivial
  · exact answers_attempt (fun _ => memoryFault_of_readOperand) fun _ => trivial

/-- Every well-formed instruction goes on, or stops with the fault of an access to memory. -/
theorem exec_answers {i : Instr} (s : State) (wf : i.wellFormed = true) : Answers s (exec i s) := by
  cases i with
  | add src | adc src | sub src | sbb src | ana src | xra src | ora src | cmp src => exact answers_withOperand s src _
  | adi _ | aci _ | sui _ | sbi _ | ani _ | xri _ | ori _ | cpi _ => trivial
  | inr dst | dcr dst => exact answers_changeOperand s dst _
  | rlc | rrc | ral | rar | cma | stc | cmc => trivial
  | dad _ | inx _ | dcx _ | lxi _ _ => trivial
  | jmp _ | jnz _ | jz _ | jnc _ | jc _ | jpo _ | jpe _ | jp _ | jm _ => trivial
  | mov dst src => exact answers_execMov s wf
  | mvi dst imm => exact answers_attempt (fun _ => memoryFault_of_writeOperand) fun _ => trivial
  | lda addr => exact answers_attempt (fun _ => memoryFault_of_memRead) fun _ => trivial
  | sta addr => exact answers_attempt (fun _ => memoryFault_of_memWrite) fun _ => trivial
  | pop rp =>
    change Answers s (execPop rp s)
    unfold execPop
    split
    · exact answers_storePair s rp
    · exact answers_loadPair s rp
  | push rp =>
    change Answers s (execPush rp s)
    unfold execPush
    split
    · exact answers_loadPair s rp
    · exact answers_storePair s rp
  | call w => exact answers_callTo s w
  | cnz w | cz w | cnc w | cc w | cpo w | cpe w | cp w | cm w => exact answers_callIf s _ w
  | ret => exact answers_returnNow s
  | rnz | rz | rnc | rc | rpo | rpe | rp | rm => exact answers_returnIf s _
  | hlt | inPort _ | outPort _ | nop => trivial

theorem exec_mov_m_m (s : State) : exec (.mov .m .m) s = .refused .movMemoryToMemory := rfl

theorem exec_fault {i : Instr} {s : State} {f : Fault} (h : exec i s = .fault f) : MemoryFault s f := by
  have notMM : i ≠ .mov .m .m := by
    rintro rfl
    rw [exec_mov_m_m] at h
    cases h
  have answers := exec_answers s (wellFormed_of_ne notMM)
  rwa [h] at answers

theorem exec_refused_iff (i : Instr) (s : State) (x : Refusal) :
    exec i s = .refused x ↔ i = .mov .m .m ∧ x = .movMemoryToMemory := by
  constructor
  · intro h
    have ill : i = .mov .m .m := by
      by_contra notMM
      have answers := exec_answers s (wellFormed_of_ne notMM)
      rw [h] at answers
      exact answers
    subst ill
    rw [exec_mov_m_m] at h
    cases h
    exact ⟨rfl, rfl⟩
  · rintro ⟨rfl, rfl⟩
    exact exec_mov_m_m s

theorem not_memoryFault_of_memoryPresent {s : State} (present : Safety.MemoryPresent s) (f : Fault) :
    ¬ MemoryFault s f := by
  rintro (⟨addr, -, notRam⟩ | ⟨addr, -, notAbsent, unlisted, policy⟩)
  · exact notRam (present addr).1
  · obtain ⟨-, v, read⟩ := present addr
    simp [memRead_unlisted notAbsent unlisted, readUnset, policy] at read

/-- Settles O23: with memory present the only fault an instruction has cannot occur. -/
theorem everyInstructionCompletesWithMemoryPresent : Obligations.EveryInstructionCompletesWithMemoryPresent := by
  intro i s wf present
  have answers := exec_answers s wf
  match he : exec i s with
  | .next t => exact ⟨t, rfl⟩
  | .fault f =>
    rw [he] at answers
    exact absurd answers (not_memoryFault_of_memoryPresent present f)
  | .refused x =>
    rw [he] at answers
    exact answers.elim

/-- Settles O24: MOV M,M faults in no state, and every other term is well formed. -/
theorem instructionFaultsAreMemoryFaults : Obligations.InstructionFaultsAreMemoryFaults :=
  fun _ _ _ => exec_fault

/-- Settles O26: what decodes is well formed (O2), and the byte of the ill-formed term is read as HLT. -/
theorem movMemoryToMemoryIsNoInstruction : Obligations.MovMemoryToMemoryIsNoInstruction := by
  refine ⟨wellFormed_eq_false_iff, exec_refused_iff, fun bs rest h => ?_, rfl⟩
  obtain ⟨wf, -⟩ := encodeOfDecodeIsTheBytes _ _ _ h
  cases wf

/-! ### The first access to M or to a named cell -/

theorem withOperand_m_fault {s : State} {f : Fault} (g : Byte → State) (h : memRead s (s.h ++ s.l) = .error f) :
    withOperand s .m g = .fault f := by
  have read : readOperand s .m = .error f := h
  rw [withOperand, read, attempt_error]

theorem changeOperand_m_read_fault {s : State} {f : Fault} (g : Byte → Byte)
    (h : memRead s (s.h ++ s.l) = .error f) : changeOperand s .m g = .fault f := by
  have read : readOperand s .m = .error f := h
  rw [changeOperand, read, attempt_error]

theorem changeOperand_m_write_fault {s : State} {v : Byte} (g : Byte → Byte)
    (read : memRead s (s.h ++ s.l) = .ok v) (kind : s.cellKind (s.h ++ s.l) ≠ .ram) :
    changeOperand s .m g = .fault (.unmappedAccess (s.h ++ s.l)) := by
  have read' : readOperand s .m = .ok v := read
  have write : writeOperand s .m (g v) = .error (.unmappedAccess (s.h ++ s.l)) := memWrite_not_ram (g v) kind
  rw [changeOperand, read', attempt_ok, write, attempt_error]

theorem exec_lda (addr : Word) (s : State) :
    exec (.lda addr) s = attempt (memRead s addr) fun v => .next ({ s with a := v }.advance 3#16) := rfl

theorem exec_sta (addr : Word) (s : State) :
    exec (.sta addr) s = attempt (memWrite s addr s.a) fun t => .next (t.advance 3#16) := rfl

theorem exec_mov_reg_m (r : Reg) (s : State) : exec (.mov (.reg r) .m) s =
    attempt (memRead s (s.h ++ s.l)) fun v => .next ((s.setReg r v).advance 1#16) := rfl

theorem exec_mov_m_reg (r : Reg) (s : State) : exec (.mov .m (.reg r)) s =
    attempt (memWrite s (s.h ++ s.l) (s.reg r)) fun t => .next (t.advance 1#16) := rfl

theorem exec_mvi_m (v : Byte) (s : State) : exec (.mvi .m v) s =
    attempt (memWrite s (s.h ++ s.l) v) fun t => .next (t.advance 2#16) := rfl

/-- Settles O27, clause by clause: each instruction's first failing access decides. -/
theorem memoryFaultStopsTheInstruction : Obligations.MemoryFaultStopsTheInstruction := by
  intro s f
  refine ⟨fun read => ?alu, fun r read => ?mov, fun addr read => ?lda, fun addr kind => ?sta,
    fun kind r v => ⟨?movStore, ?mviStore⟩, fun rom v read => ?rom⟩
  case alu =>
    have operand (g : Byte → State) : withOperand s .m g = .fault f := withOperand_m_fault g read
    have change (g : Byte → Byte) : changeOperand s .m g = .fault f := changeOperand_m_read_fault g read
    simp only [List.forall_mem_cons]
    exact ⟨operand _, operand _, operand _, operand _, operand _, operand _, operand _, operand _, change _, change _,
      by simp⟩
  case mov => rw [exec_mov_reg_m, read, attempt_error]
  case lda => rw [exec_lda, read, attempt_error]
  case sta => rw [exec_sta, memWrite_not_ram _ kind, attempt_error]
  case movStore => rw [exec_mov_m_reg, memWrite_not_ram _ kind, attempt_error]
  case mviStore => rw [exec_mvi_m, memWrite_not_ram _ kind, attempt_error]
  case rom =>
    have kind : s.cellKind (s.h ++ s.l) ≠ .ram := by simp [rom]
    exact ⟨changeOperand_m_write_fault _ read kind, changeOperand_m_write_fault _ read kind⟩

end Sys2Proof.Proofs.InstructionAnswers

/-! Fetch and step (20_memory.md R51, 00_scope.md R8): what the bytes at pc make a step do. -/

namespace Sys2Proof.Proofs.FetchStep

open Sys2Proof Sys2Proof.Machine Sys2Proof.Claims
open Sys2Proof.Proofs.Encoding Sys2Proof.Proofs.InstructionAnswers

/-! ### Fetch, format by format -/

theorem fetch_f1 {s : State} {b : Byte} {i : Instr} (read : memRead s s.pc = .ok b)
    (hf : opcodeFormat b = some (.f1 i)) : fetch s = .ok i := by
  simp only [fetch, read, hf]

theorem fetch_f2 {s : State} {b v : Byte} {k : Byte → Instr} (read : memRead s s.pc = .ok b)
    (hf : opcodeFormat b = some (.f2 k)) (read1 : memRead s (s.pc + 1#16) = .ok v) : fetch s = .ok (k v) := by
  simp only [fetch, read, hf, read1]

theorem fetch_f3 {s : State} {b lo hi : Byte} {k : Word → Instr} (read : memRead s s.pc = .ok b)
    (hf : opcodeFormat b = some (.f3 k)) (read1 : memRead s (s.pc + 1#16) = .ok lo)
    (read2 : memRead s (s.pc + 2#16) = .ok hi) : fetch s = .ok (k (imm16 lo hi)) := by
  simp only [fetch, read, hf, read1, read2]

theorem fetch_unassigned {s : State} {b : Byte} (read : memRead s s.pc = .ok b) (hf : opcodeFormat b = none) :
    fetch s = .error (.illegalOpcode s.pc b) := by
  simp only [fetch, read, hf]

theorem fetch_opcode_fault {s : State} {f : Fault} (fault : memRead s s.pc = .error f) : fetch s = .error f := by
  simp only [fetch, fault]

theorem opcodeLength_eq_two {b : Byte} (h : opcodeLength b = some 2) : ∃ k, opcodeFormat b = some (.f2 k) := by
  obtain ⟨fmt, hf, length⟩ := Option.map_eq_some_iff.mp h
  match fmt, length with
  | .f2 k, _ => exact ⟨k, hf⟩

theorem opcodeLength_eq_three {b : Byte} (h : opcodeLength b = some 3) : ∃ k, opcodeFormat b = some (.f3 k) := by
  obtain ⟨fmt, hf, length⟩ := Option.map_eq_some_iff.mp h
  match fmt, length with
  | .f3 k, _ => exact ⟨k, hf⟩

theorem fetch_second_fault {s : State} {b : Byte} {f : Fault} (read : memRead s s.pc = .ok b)
    (long : b ∈ twoByteOpcodes ∨ b ∈ threeByteOpcodes) (fault : memRead s (s.pc + 1#16) = .error f) :
    fetch s = .error f := by
  rw [mem_twoByteOpcodes_iff, mem_threeByteOpcodes_iff] at long
  rcases long with two | three
  · obtain ⟨k, hf⟩ := opcodeLength_eq_two two
    simp only [fetch, read, hf, fault]
  · obtain ⟨k, hf⟩ := opcodeLength_eq_three three
    simp only [fetch, read, hf, fault]

theorem fetch_third_fault {s : State} {b lo : Byte} {f : Fault} (read : memRead s s.pc = .ok b)
    (long : b ∈ threeByteOpcodes) (read1 : memRead s (s.pc + 1#16) = .ok lo)
    (fault : memRead s (s.pc + 2#16) = .error f) : fetch s = .error f := by
  obtain ⟨k, hf⟩ := opcodeLength_eq_three ((mem_threeByteOpcodes_iff b).mp long)
  simp only [fetch, read, hf, read1, fault]

/-- Fetch reads what the decoder decodes. -/
theorem fetch_of_bytesAt {s : State} {i : Instr} {bs rest : List Byte} (bytes : BytesAt s s.pc bs)
    (hd : decode bs = .ok (i, rest)) : fetch s = .ok i := by
  rcases decode_ok hd with ⟨b, rfl, hf⟩ | ⟨b, v, k, rfl, hf, rfl⟩ | ⟨b, lo, hi, k, rfl, hf, rfl⟩
  all_goals have read : memRead s s.pc = .ok b := by simpa using bytes 0 b rfl
  · exact fetch_f1 read hf
  · exact fetch_f2 read hf (bytes 1 v rfl)
  · exact fetch_f3 read hf (bytes 1 lo rfl) (bytes 2 hi rfl)

/-- What fetch gives is well formed: no bytes stand for MOV M,M. -/
theorem fetch_wellFormed {s : State} {i : Instr} (h : fetch s = .ok i) : i.wellFormed = true := by
  obtain ⟨op, -, hf | ⟨k, v, hf, -, rfl⟩ | ⟨k, lo, hi, hf, -, -, rfl⟩⟩ := fetch_ok h
  · exact (opcodeFormat_encodesAs hf).1
  · exact (opcodeFormat_encodesAs hf v).1
  · exact (opcodeFormat_encodesAs hf (imm16 lo hi)).1

/-! ### Step -/

theorem step_halted {s : State} (halted : s.halted = true) : step s = .next s := by
  simp only [step, halted, if_true]

theorem step_of_fetch_ok {s : State} {i : Instr} (running : s.halted = false) (h : fetch s = .ok i) :
    step s = stepAnswer (exec i s) := by
  simp only [step, running, h, Bool.false_eq_true, if_false, stepAnswer, onNext, State.nextTick]
  rfl

theorem step_of_fetch_error {s : State} {f : Fault} (running : s.halted = false) (h : fetch s = .error f) :
    step s = .fault f := by
  simp only [step, running, h, Bool.false_eq_true, if_false, raise]

/-- Settles O6: fetch reads the bytes that the decoder is given. -/
theorem stepRunsTheDecodedInstruction : Obligations.StepRunsTheDecodedInstruction :=
  fun _ _ _ _ running bytes hd => step_of_fetch_ok running (fetch_of_bytesAt bytes hd)

/-- Settles O7, from O6 and the round trip O1. -/
theorem stepRunsTheEncodedInstruction : Obligations.StepRunsTheEncodedInstruction := by
  intro s i wf running bytes
  have hd : decode (encode i) = .ok (i, []) := by simpa using decodeOfEncodeIsTheInstruction i [] wf
  exact stepRunsTheDecodedInstruction s i (encode i) [] running bytes hd

/-- Settles O8: the length lists say which opcodes have a second and a third byte to read. -/
theorem fetchFaultsInOrder : Obligations.FetchFaultsInOrder := by
  intro s f running
  refine ⟨fun fault => ?_, fun b read long fault => ?_, fun b lo read long read1 fault => ?_⟩
  · exact step_of_fetch_error running (fetch_opcode_fault fault)
  · exact step_of_fetch_error running (fetch_second_fault read long fault)
  · exact step_of_fetch_error running (fetch_third_fault read long read1 fault)

theorem not_memoryFault_illegalOpcode (s : State) (pc : Word) (b : Byte) : ¬ MemoryFault s (.illegalOpcode pc b) := by
  rintro (⟨addr, h, -⟩ | ⟨addr, h, -⟩) <;> cases h

theorem opcodeFormat_none_of_illegalOpcode {s : State} {pc : Word} {b : Byte}
    (h : step s = .fault (.illegalOpcode pc b)) : pc = s.pc ∧ memRead s s.pc = .ok b ∧ opcodeFormat b = none := by
  obtain ⟨-, fault | ⟨i, -, fault⟩⟩ := step_fault h
  · rcases fetch_error fault with ⟨a, read⟩ | ⟨op, read, hf, same⟩
    · exact absurd (memoryFault_of_memRead read) (not_memoryFault_illegalOpcode s pc b)
    · cases same
      exact ⟨rfl, read, hf⟩
  · exact absurd (exec_fault fault) (not_memoryFault_illegalOpcode s pc b)

/-- Settles O5: the fault comes from the fetch alone, since no access and no instruction raises it. -/
theorem unassignedOpcodeIsAFault : Obligations.UnassignedOpcodeIsAFault := by
  intro s b running read
  rw [mem_unassignedBytes_iff, opcodeLength, Option.map_eq_none_iff]
  constructor
  · intro hf
    exact step_of_fetch_error running (fetch_unassigned read hf)
  · intro h
    obtain ⟨-, -, hf⟩ := opcodeFormat_none_of_illegalOpcode h
    exact hf

/-- Settles O9, by induction on the number of steps. -/
theorem haltedMachineStaysAsItIs : Obligations.HaltedMachineStaysAsItIs := by
  intro s n halted
  have stays : core.step s = .next s := step_halted halted
  induction n with
  | zero => rfl
  | succ n ih => simp only [Host.Core.run, stays, ih]

/-- Everything a step that is refused says. -/
theorem step_refused {s : State} {x : Refusal} (h : step s = .refused x) :
    ∃ i, fetch s = .ok i ∧ exec i s = .refused x := by
  unfold step at h
  split at h
  · cases h
  split at h
  · cases h
  rename_i i hi
  split at h <;> cases h
  exact ⟨i, hi, by assumption⟩

theorem unsetRead_of_memoryFault {s : State} {f : Fault} (ram : ∀ addr, s.cellKind addr = .ram)
    (h : MemoryFault s f) : ∃ addr, f = .unsetRead addr := by
  rcases h with ⟨addr, -, notRam⟩ | ⟨addr, rfl, -⟩
  · exact absurd (ram addr) notRam
  · exact ⟨addr, rfl⟩

/-- Settles O25: of the faults of accesses only UnsetRead is left, and what is fetched is never refused. -/
theorem allRamLeavesTwoFaults : Obligations.AllRamLeavesTwoFaults := by
  intro s ram
  constructor
  · intro f h
    obtain ⟨-, fault | ⟨i, -, fault⟩⟩ := step_fault h
    · rcases fetch_error fault with ⟨a, read⟩ | ⟨op, -, -, rfl⟩
      · exact .inr (unsetRead_of_memoryFault ram (memoryFault_of_memRead read))
      · exact .inl ⟨op, rfl⟩
    · exact .inr (unsetRead_of_memoryFault ram (exec_fault fault))
  · intro x h
    obtain ⟨i, fetched, refused⟩ := step_refused h
    obtain ⟨rfl, -⟩ := (exec_refused_iff i s x).mp refused
    cases fetch_wellFormed fetched

/-- Settles O58: the state HLT answers is halted, and a step of a halted machine answers it again. -/
theorem hltEndsTheRun : Obligations.HltEndsTheRun := by
  intro s
  have halts : exec .hlt s = .next { s with halted := true, pc := s.pc + 1#16 } := rfl
  refine ⟨halts, fun t h => ?_⟩
  rw [halts] at h
  cases h
  exact step_halted rfl

theorem memRead_reset (addr : Word) : memRead State.reset addr = .error (.unsetRead addr) := rfl

/-- Settles O60: the step clause is O7 at the state after reset, whose memory is that of `s`. -/
theorem environmentResetStartsAtZero : Obligations.EnvironmentResetStartsAtZero := by
  refine ⟨⟨rfl, rfl, memRead_reset⟩, fun s => ⟨rfl, rfl, rfl, rfl, rfl, fun i wf bytes => ?_⟩⟩
  have sameReads (a : Word) : memRead s.environmentReset a = memRead s a := memRead_congr a rfl rfl
  have bytes' : BytesAt s.environmentReset s.environmentReset.pc (encode i) := by
    intro n v hv
    rw [sameReads]
    exact bytes n v hv
  exact stepRunsTheEncodedInstruction s.environmentReset i wf rfl bytes'

end Sys2Proof.Proofs.FetchStep

/-! Which cells of memory an instruction and a step change (20_memory.md R46): the stores an instruction makes are those
of `storedAddresses`, in order, each to RAM. -/

namespace Sys2Proof.Proofs.MemoryFrame

open Sys2Proof Sys2Proof.Machine Sys2Proof.Claims
open Sys2Proof.Proofs.FetchStep

/-! ### A list of stores -/

/-- Memory after stores made one after another. -/
def storeAll (m : Memory) (ws : List (Word × Byte)) : Memory :=
  ws.foldl (fun m w => Memory.insert m w.1.toNat w.2) m

theorem storeAll_wf {m : Memory} (ws : List (Word × Byte)) (hm : Memory.wf m) : Memory.wf (storeAll m ws) := by
  induction ws generalizing m with
  | nil => exact hm
  | cons w rest ih => exact ih (Memory.insert_wf m w.1.toNat w.2 w.1.isLt hm)

theorem lookup_insert_of_ne (m : Memory) {a x : Word} (v : Byte) (h : x ≠ a) :
    Memory.lookup (Memory.insert m a.toNat v) x.toNat = Memory.lookup m x.toNat := by
  rw [Memory.lookup_insert, if_neg (mt BitVec.eq_of_toNat_eq h)]

theorem lookup_insert_same (m : Memory) (a : Word) (v : Byte) :
    Memory.lookup (Memory.insert m a.toNat v) a.toNat = some v := by
  rw [Memory.lookup_insert, if_pos rfl]

theorem lookup_storeAll {m : Memory} {ws : List (Word × Byte)} {x : Word} (h : x ∉ ws.map Prod.fst) :
    Memory.lookup (storeAll m ws) x.toNat = Memory.lookup m x.toNat := by
  induction ws generalizing m with
  | nil => rfl
  | cons w rest ih =>
    rw [List.map_cons, List.mem_cons, not_or] at h
    obtain ⟨notHead, notRest⟩ := h
    exact (ih notRest).trans (lookup_insert_of_ne m w.2 notHead)

theorem cellKind_ne_absent {s t : State} {a : Word} (ram : s.cellKind a = .ram) (cfg : t.cfg = s.cfg) :
    t.cellKind a ≠ .absent := by
  have same : t.cellKind a = s.cellKind a := by rw [State.cellKind, State.cellKind, cfg]
  rw [same, ram]
  exact nofun

/-- The memory of `t` is that of `s` after one store to each of the addresses in order, and each of them is RAM. -/
def StoresAt (s t : State) (addrs : List Word) : Prop :=
  ∃ ws : List (Word × Byte), ws.map Prod.fst = addrs ∧ (∀ a ∈ addrs, s.cellKind a = .ram) ∧ t.mem = storeAll s.mem ws

theorem storesAt_wf {s t : State} {addrs : List Word} (h : StoresAt s t addrs) (hs : Memory.wf s.mem) :
    Memory.wf t.mem := by
  obtain ⟨ws, -, -, mem⟩ := h
  rw [mem]
  exact storeAll_wf ws hs

theorem storesAt_lookup {s t : State} {addrs : List Word} (h : StoresAt s t addrs) {x : Word} (hx : x ∉ addrs) :
    Memory.lookup t.mem x.toNat = Memory.lookup s.mem x.toNat := by
  obtain ⟨ws, rfl, -, mem⟩ := h
  rw [mem]
  exact lookup_storeAll hx

theorem storesAt_nil {s t : State} (h : t.mem = s.mem) : StoresAt s t [] :=
  ⟨[], rfl, nofun, h⟩

theorem storesAt_memWrite {s t u : State} {a : Word} {v : Byte} (h : memWrite s a v = .ok u) (ht : t.mem = u.mem) :
    StoresAt s t [a] := by
  obtain ⟨ram, rfl⟩ := memWrite_ok h
  exact ⟨[(a, v)], rfl, by simpa using ram, ht⟩

theorem storesAt_stackStore {s t u : State} {w : Word} (h : stackStore s w = .ok u) (ht : t.mem = u.mem) :
    StoresAt s t [s.sp - 1#16, s.sp - 2#16] := by
  obtain ⟨ram1, ram2, rfl⟩ := stackStore_ok h
  exact ⟨[(s.sp - 1#16, hi8 w), (s.sp - 2#16, lo8 w)], rfl, by simp [ram1, ram2], ht⟩

/-! ### The shared operations -/

theorem withOperand_storesAt {s t : State} {src : Operand} {f : Byte → State} (h : withOperand s src f = .next t)
    (hf : ∀ v, (f v).mem = s.mem) : StoresAt s t [] := by
  obtain ⟨v, -, rfl⟩ := withOperand_next h
  exact storesAt_nil (hf v)

/-- The addresses a write to a register field stores to: none, or H ++ L. -/
def operandAddresses (s : State) : Operand → List Word
  | .reg _ => []
  | .m => [s.h ++ s.l]

theorem writeOperand_storesAt {s t u : State} {dst : Operand} {v : Byte} (h : writeOperand s dst v = .ok u)
    (ht : t.mem = u.mem) : StoresAt s t (operandAddresses s dst) := by
  cases dst with
  | reg r =>
    cases h
    exact storesAt_nil (by rw [ht, State.setReg_mem])
  | m => exact storesAt_memWrite h ht

theorem changeOperand_storesAt {s t : State} {dst : Operand} {f : Byte → Byte} (h : changeOperand s dst f = .next t) :
    StoresAt s t (operandAddresses s dst) := by
  obtain ⟨v, u, -, written, rfl⟩ := changeOperand_next h
  exact writeOperand_storesAt written rfl

theorem storePair_storesAt {s t : State} {rp : StackPair} (h : storePair s rp = .next t) :
    StoresAt s t [s.sp - 1#16, s.sp - 2#16] := by
  obtain ⟨u, stored, rfl⟩ := storePair_next h
  exact storesAt_stackStore stored rfl

theorem loadPair_storesAt {s t : State} {rp : StackPair} (h : loadPair s rp = .next t) : StoresAt s t [] := by
  obtain ⟨w, u, loaded, rfl⟩ := loadPair_next h
  obtain ⟨lo, hi, -, -, -, rfl⟩ := stackLoad_ok loaded
  exact storesAt_nil (by simp)

theorem callTo_storesAt {s t : State} {w : Word} (h : callTo s w = .next t) :
    StoresAt s t [s.sp - 1#16, s.sp - 2#16] := by
  obtain ⟨u, stored, rfl⟩ := callTo_next h
  exact storesAt_stackStore stored rfl

theorem returnNow_storesAt {s t : State} (h : returnNow s = .next t) : StoresAt s t [] := by
  obtain ⟨w, u, loaded, rfl⟩ := returnNow_next h
  obtain ⟨lo, hi, -, -, -, rfl⟩ := stackLoad_ok loaded
  exact storesAt_nil rfl

theorem returnIf_storesAt {s t : State} {cond : Cond} (h : returnIf s cond = .next t) : StoresAt s t [] := by
  unfold returnIf at h
  split at h
  · exact returnNow_storesAt h
  · cases h; exact storesAt_nil rfl

theorem stackStores_condCall (s : State) (w : Word) (cond : Cond) :
    stackStores s (condCall w cond) = condHolds s.flags cond := by
  cases cond <;> simp [stackStores, condCall, condHolds]

theorem storedAddresses_condCall (s : State) (w : Word) (cond : Cond) :
    storedAddresses s (condCall w cond) =
      if condHolds s.flags cond then [s.sp - 1#16, s.sp - 2#16] else [] := by
  rw [← stackStores_condCall s w cond]
  cases cond <;> rfl

theorem callIf_storesAt {s t : State} {cond : Cond} {w : Word} (h : callIf s cond w = .next t) :
    StoresAt s t (storedAddresses s (condCall w cond)) := by
  rw [storedAddresses_condCall]
  unfold callIf at h
  split at h <;> rename_i holds
  · rw [if_pos holds]
    exact callTo_storesAt h
  · rw [if_neg holds]
    cases h
    exact storesAt_nil rfl

/-- POP and PUSH by the sense of the stack opcodes (44_stack.md R211). -/
theorem exec_pop (rp : StackPair) (s : State) :
    exec (.pop rp) s = if popLoads s then loadPair s rp else storePair s rp := by
  change execPop rp s = _
  unfold execPop popLoads
  split <;> rename_i sense <;> rw [sense] <;> rfl

theorem exec_push (rp : StackPair) (s : State) :
    exec (.push rp) s = if popLoads s then storePair s rp else loadPair s rp := by
  change execPush rp s = _
  unfold execPush popLoads
  split <;> rename_i sense <;> rw [sense] <;> rfl

theorem exec_pop_storesAt {s t : State} {rp : StackPair} (h : exec (.pop rp) s = .next t) :
    StoresAt s t (storedAddresses s (.pop rp)) := by
  rw [exec_pop] at h
  cases loads : popLoads s <;> simp only [storedAddresses, stackStores, loads] at h ⊢
  · exact storePair_storesAt h
  · exact loadPair_storesAt h

theorem exec_push_storesAt {s t : State} {rp : StackPair} (h : exec (.push rp) s = .next t) :
    StoresAt s t (storedAddresses s (.push rp)) := by
  rw [exec_push] at h
  cases loads : popLoads s <;> simp only [storedAddresses, stackStores, loads] at h ⊢
  · exact loadPair_storesAt h
  · exact storePair_storesAt h

theorem execMov_storesAt {s t : State} {dst src : Operand} (h : execMov dst src s = .next t) :
    StoresAt s t (operandAddresses s dst) := by
  unfold execMov at h
  split at h
  · cases h
  · obtain ⟨u, written, h⟩ := attempt_next h
    cases h
    exact storesAt_memWrite written rfl
  · obtain ⟨v, -, h⟩ := attempt_next h
    cases h
    exact storesAt_nil (by simp)

/-! ### Every instruction -/

/-- An instruction that goes on stores to the addresses listed for it, all of them RAM, and to no other. -/
theorem exec_storesAt {i : Instr} {s t : State} (h : exec i s = .next t) : StoresAt s t (storedAddresses s i) := by
  cases i with
  | add src | adc src | sub src | sbb src | ana src | xra src | ora src | cmp src =>
    exact withOperand_storesAt h fun _ => rfl
  | adi _ | aci _ | sui _ | sbi _ | ani _ | xri _ | ori _ | cpi _ => cases h; exact storesAt_nil rfl
  | inr dst | dcr dst =>
    have stores := changeOperand_storesAt h
    cases dst <;> exact stores
  | rlc | rrc | ral | rar | cma | stc | cmc | dad _ => cases h; exact storesAt_nil rfl
  | inx rp | dcx rp | lxi rp _ => cases h; exact storesAt_nil (by simp)
  | jmp _ => cases h; exact storesAt_nil rfl
  | jnz _ | jz _ | jnc _ | jc _ | jpo _ | jpe _ | jp _ | jm _ =>
    cases jumpIf_next h
    split <;> exact storesAt_nil rfl
  | mov dst src =>
    have stores := execMov_storesAt h
    cases dst <;> exact stores
  | mvi dst imm =>
    obtain ⟨u, written, h⟩ := attempt_next h
    cases h
    cases dst <;> exact writeOperand_storesAt written rfl
  | lda addr =>
    obtain ⟨v, -, h⟩ := attempt_next h
    cases h
    exact storesAt_nil rfl
  | sta addr =>
    obtain ⟨u, written, h⟩ := attempt_next h
    cases h
    exact storesAt_memWrite written rfl
  | pop rp => exact exec_pop_storesAt h
  | push rp => exact exec_push_storesAt h
  | call w => exact callTo_storesAt h
  | cnz w | cz w | cnc w | cc w | cpo w | cpe w | cp w | cm w =>
    have stores := callIf_storesAt h
    exact stores
  | ret => exact returnNow_storesAt h
  | rnz | rz | rnc | rc | rpo | rpe | rp | rm => exact returnIf_storesAt h
  | hlt | inPort _ | outPort _ | nop => cases h; exact storesAt_nil rfl

theorem step_storesAt {s t : State} (h : step s = .next t) : ∃ addrs, StoresAt s t addrs := by
  rcases step_next h with ⟨-, rfl⟩ | ⟨-, i, u, -, executed, rfl⟩
  · exact ⟨[], storesAt_nil rfl⟩
  · have stores : StoresAt s u (storedAddresses s i) := exec_storesAt executed
    exact ⟨storedAddresses s i, stores⟩

/-- Settles O10: stores at addresses of sixteen bits keep the canonical form. -/
theorem stepKeepsMemoryCanonical : Obligations.StepKeepsMemoryCanonical := by
  intro s t canonical h
  obtain ⟨addrs, stores⟩ := step_storesAt h
  exact storesAt_wf stores canonical

/-- Settles O16: every address stored to is RAM. -/
theorem onlyRamCellsChange : Obligations.OnlyRamCellsChange := by
  intro s t addr h notRam
  obtain ⟨addrs, stores⟩ := step_storesAt h
  have notStored : addr ∉ addrs := by
    obtain ⟨ws, -, ram, -⟩ := stores
    exact fun stored => notRam (ram addr stored)
  exact storesAt_lookup stores notStored

end Sys2Proof.Proofs.MemoryFrame

/-! What an instruction leaves unchanged beside memory: the halted bit, the trace, the parameters and the index, the flags
and the registers (10_state.md R12, R19, R21). -/

namespace Sys2Proof.Proofs.MachineFrame

open Sys2Proof Sys2Proof.Machine Sys2Proof.Claims
open Sys2Proof.Proofs.InstructionAnswers Sys2Proof.Proofs.FetchStep Sys2Proof.Proofs.MemoryFrame

/-! ### What the shared operations do to everything but memory and pc -/

theorem writeOperand_same {s u : State} {dst : Operand} {v : Byte} (h : writeOperand s dst v = .ok u) :
    u.flags = s.flags ∧ u.sp = s.sp ∧ u.halted = s.halted ∧ u.trace = s.trace ∧ u.cfg = s.cfg ∧ u.tick = s.tick := by
  rcases writeOperand_ok h with ⟨r, -, rfl⟩ | ⟨-, -, rfl⟩
  · simp
  · exact ⟨rfl, rfl, rfl, rfl, rfl, rfl⟩

theorem reg_writeOperand {s u : State} {dst : Operand} {v : Byte} (h : writeOperand s dst v = .ok u) {q : Reg}
    (hq : (dst == .reg q) = false) : u.reg q = s.reg q := by
  rcases writeOperand_ok h with ⟨r, rfl, rfl⟩ | ⟨-, -, rfl⟩
  · rw [State.reg_setReg, if_neg]
    rintro rfl
    simp at hq
  · cases q <;> rfl

theorem stackStore_same {s u : State} {w : Word} (h : stackStore s w = .ok u) :
    (∀ q, u.reg q = s.reg q) ∧ u.flags = s.flags ∧ u.halted = s.halted ∧ u.trace = s.trace ∧ u.cfg = s.cfg ∧
      u.tick = s.tick := by
  obtain ⟨-, -, rfl⟩ := stackStore_ok h
  exact ⟨fun q => by cases q <;> rfl, rfl, rfl, rfl, rfl, rfl⟩

theorem stackLoad_same {s u : State} {w : Word} (h : stackLoad s = .ok (w, u)) :
    (∀ q, u.reg q = s.reg q) ∧ u.flags = s.flags ∧ u.halted = s.halted ∧ u.trace = s.trace ∧ u.cfg = s.cfg ∧
      u.tick = s.tick := by
  obtain ⟨lo, hi, -, -, -, rfl⟩ := stackLoad_ok h
  exact ⟨fun q => by cases q <;> rfl, rfl, rfl, rfl, rfl, rfl⟩

theorem callIf_same {s t : State} {cond : Cond} {w : Word} (h : callIf s cond w = .next t) :
    (∀ q, t.reg q = s.reg q) ∧ t.flags = s.flags ∧ t.halted = s.halted ∧ t.trace = s.trace ∧ t.cfg = s.cfg ∧
      t.tick = s.tick := by
  rcases callIf_next h with ⟨-, u, stored, rfl⟩ | ⟨-, rfl⟩
  · simpa using stackStore_same stored
  · simp

theorem returnIf_same {s t : State} {cond : Cond} (h : returnIf s cond = .next t) :
    (∀ q, t.reg q = s.reg q) ∧ t.flags = s.flags ∧ t.halted = s.halted ∧ t.trace = s.trace ∧ t.cfg = s.cfg ∧
      t.tick = s.tick := by
  rcases returnIf_next h with ⟨-, w, u, loaded, rfl⟩ | ⟨-, rfl⟩
  · simpa using stackLoad_same loaded
  · simp

theorem jumpIf_same {s t : State} {cond : Cond} {w : Word} (h : jumpIf s cond w = .next t) : ∃ pc, t = s.goto pc := by
  cases jumpIf_next h
  split
  · exact ⟨w, rfl⟩
  · exact ⟨s.pc + 3#16, rfl⟩

/-- MOV to a register or to M that goes on is a write of the destination operand, then pc + 1. -/
theorem execMov_next {s t : State} {dst src : Operand} (h : execMov dst src s = .next t) :
    ∃ v u, writeOperand s dst v = .ok u ∧ t = u.advance 1#16 := by
  unfold execMov at h
  split at h
  · cases h
  · obtain ⟨u, written, h⟩ := attempt_next h
    cases h
    exact ⟨_, u, written, rfl⟩
  · obtain ⟨v, -, h⟩ := attempt_next h
    cases h
    exact ⟨v, _, rfl, rfl⟩

theorem execMvi_next {s t : State} {dst : Operand} {imm : Byte} (h : exec (.mvi dst imm) s = .next t) :
    ∃ u, writeOperand s dst imm = .ok u ∧ t = u.advance 2#16 := by
  obtain ⟨u, written, h⟩ := attempt_next h
  cases h
  exact ⟨u, written, rfl⟩

theorem exec_lda_next {s t : State} {addr : Word} (h : exec (.lda addr) s = .next t) :
    ∃ v, t = (s.setReg .a v).advance 3#16 := by
  obtain ⟨v, -, h⟩ := attempt_next h
  cases h
  exact ⟨v, rfl⟩

theorem exec_sta_next {s t : State} {addr : Word} (h : exec (.sta addr) s = .next t) :
    t = { s with mem := t.mem }.advance 3#16 := by
  obtain ⟨u, written, h⟩ := attempt_next h
  obtain ⟨-, rfl⟩ := memWrite_ok written
  cases h
  rfl

/-! ### The halted bit, the trace, the parameters and the index -/

/-- The fields of the state that only HLT, IN and OUT touch, or none. -/
def KeepsControl (s t : State) : Prop :=
  t.halted = s.halted ∧ t.trace = s.trace ∧ t.cfg = s.cfg ∧ t.tick = s.tick

theorem withOperand_keepsControl {s t : State} {src : Operand} {f : Byte → State}
    (h : withOperand s src f = .next t) (hf : ∀ v, KeepsControl s (f v)) : KeepsControl s t := by
  obtain ⟨v, -, rfl⟩ := withOperand_next h
  exact hf v

theorem changeOperand_keepsControl {s t : State} {dst : Operand} {f : Byte → Byte}
    (h : changeOperand s dst f = .next t) : KeepsControl s t := by
  obtain ⟨v, u, -, written, rfl⟩ := changeOperand_next h
  obtain ⟨-, -, same⟩ := writeOperand_same written
  exact same

theorem storePair_keepsControl {s t : State} {rp : StackPair} (h : storePair s rp = .next t) : KeepsControl s t := by
  obtain ⟨u, stored, rfl⟩ := storePair_next h
  obtain ⟨-, -, same⟩ := stackStore_same stored
  exact same

theorem loadPair_keepsControl {s t : State} {rp : StackPair} (h : loadPair s rp = .next t) : KeepsControl s t := by
  obtain ⟨w, u, loaded, rfl⟩ := loadPair_next h
  obtain ⟨-, -, same⟩ := stackLoad_same loaded
  simpa [KeepsControl] using same

/-- Every instruction but HLT, IN and OUT keeps them. -/
theorem exec_keepsControl {i : Instr} {s t : State} (h : exec i s = .next t) (notHlt : i ≠ .hlt)
    (notPort : ∀ p, i ≠ .inPort p ∧ i ≠ .outPort p) : KeepsControl s t := by
  cases i with
  | add src | adc src | sub src | sbb src | ana src | xra src | ora src | cmp src =>
    exact withOperand_keepsControl h fun _ => ⟨rfl, rfl, rfl, rfl⟩
  | adi _ | aci _ | sui _ | sbi _ | ani _ | xri _ | ori _ | cpi _ => cases h; exact ⟨rfl, rfl, rfl, rfl⟩
  | inr dst | dcr dst => exact changeOperand_keepsControl h
  | rlc | rrc | ral | rar | cma | stc | cmc | dad _ => cases h; exact ⟨rfl, rfl, rfl, rfl⟩
  | inx rp | dcx rp | lxi rp _ => cases h; simp [KeepsControl]
  | jmp _ => cases h; exact ⟨rfl, rfl, rfl, rfl⟩
  | jnz _ | jz _ | jnc _ | jc _ | jpo _ | jpe _ | jp _ | jm _ =>
    obtain ⟨pc, rfl⟩ := jumpIf_same h
    exact ⟨rfl, rfl, rfl, rfl⟩
  | mov dst src =>
    obtain ⟨v, u, written, rfl⟩ := execMov_next h
    obtain ⟨-, -, same⟩ := writeOperand_same written
    exact same
  | mvi dst imm =>
    obtain ⟨u, written, rfl⟩ := execMvi_next h
    obtain ⟨-, -, same⟩ := writeOperand_same written
    exact same
  | lda addr => obtain ⟨v, rfl⟩ := exec_lda_next h; exact ⟨rfl, rfl, rfl, rfl⟩
  | sta addr => rw [exec_sta_next h]; exact ⟨rfl, rfl, rfl, rfl⟩
  | pop rp =>
    rw [exec_pop] at h
    split at h
    · exact loadPair_keepsControl h
    · exact storePair_keepsControl h
  | push rp =>
    rw [exec_push] at h
    split at h
    · exact storePair_keepsControl h
    · exact loadPair_keepsControl h
  | call w =>
    obtain ⟨u, stored, rfl⟩ := callTo_next h
    obtain ⟨-, -, same⟩ := stackStore_same stored
    exact same
  | cnz w | cz w | cnc w | cc w | cpo w | cpe w | cp w | cm w =>
    obtain ⟨-, -, same⟩ := callIf_same h
    exact same
  | ret =>
    obtain ⟨w, u, loaded, rfl⟩ := returnNow_next h
    obtain ⟨-, -, same⟩ := stackLoad_same loaded
    exact same
  | rnz | rz | rnc | rc | rpo | rpe | rp | rm =>
    obtain ⟨-, -, same⟩ := returnIf_same h
    exact same
  | hlt => exact absurd rfl notHlt
  | inPort p => exact absurd rfl (notPort p).1
  | outPort p => exact absurd rfl (notPort p).2
  | nop => cases h; exact ⟨rfl, rfl, rfl, rfl⟩

/-- Settles O21: HLT, IN and OUT by their own results, every other instruction by `exec_keepsControl`. -/
theorem onlyHltHaltsAndOnlyPortsTrace : Obligations.OnlyHltHaltsAndOnlyPortsTrace := by
  intro i s t h
  by_cases isHlt : i = .hlt
  · subst isHlt
    cases h
    exact ⟨fun notHlt => absurd rfl notHlt, fun _ => rfl, rfl, rfl⟩
  by_cases isIn : ∃ p, i = .inPort p
  · obtain ⟨p, rfl⟩ := isIn
    cases h
    exact ⟨fun _ => rfl, fun notPort => absurd rfl (notPort p).1, rfl, rfl⟩
  by_cases isOut : ∃ p, i = .outPort p
  · obtain ⟨p, rfl⟩ := isOut
    cases h
    exact ⟨fun _ => rfl, fun notPort => absurd rfl (notPort p).2, rfl, rfl⟩
  obtain ⟨halted, trace, cfg, tick⟩ := exec_keepsControl h isHlt fun p => ⟨fun e => isIn ⟨p, e⟩, fun e => isOut ⟨p, e⟩⟩
  exact ⟨fun _ => halted, fun _ => trace, cfg, tick⟩

theorem exec_cfg {i : Instr} {s t : State} (h : exec i s = .next t) : t.cfg = s.cfg := by
  obtain ⟨-, -, cfg, -⟩ := onlyHltHaltsAndOnlyPortsTrace i s t h
  exact cfg

theorem exec_tick {i : Instr} {s t : State} (h : exec i s = .next t) : t.tick = s.tick := by
  obtain ⟨-, -, -, tick⟩ := onlyHltHaltsAndOnlyPortsTrace i s t h
  exact tick

theorem exec_trace_extends {i : Instr} {s t : State} (h : exec i s = .next t) : s.trace <+: t.trace := by
  by_cases isPort : ∃ p, i = .inPort p ∨ i = .outPort p
  · obtain ⟨p, rfl | rfl⟩ := isPort <;> cases h <;> exact ⟨_, rfl⟩
  · obtain ⟨-, trace, -⟩ := onlyHltHaltsAndOnlyPortsTrace i s t h
    rw [trace fun p => ⟨fun e => isPort ⟨p, .inl e⟩, fun e => isPort ⟨p, .inr e⟩⟩]

/-- Settles O18: a halted step changes nothing, a running one keeps and extends what its instruction does. -/
theorem stepKeepsParametersAndTrace : Obligations.StepKeepsParametersAndTrace := by
  intro s t h
  rcases step_next h with ⟨halted, rfl⟩ | ⟨-, i, u, -, executed, rfl⟩
  · exact ⟨rfl, ⟨[], List.append_nil _⟩, fun running => by simp [halted] at running⟩
  · have cfg := exec_cfg executed
    have trace := exec_trace_extends executed
    exact ⟨cfg, trace, fun _ => by rw [State.nextTick_tick, exec_tick executed]⟩

/-! ### Reads of memory over an instruction and a step -/

/-- Settles O17: the parameters and every cell not stored to are kept. -/
theorem memoryChangesOnlyWhereStored : Obligations.MemoryChangesOnlyWhereStored := by
  intro i s t addr h notStored
  exact memRead_congr addr (exec_cfg h) (storesAt_lookup (exec_storesAt h) notStored)

theorem stepAnswer_next {r : Result} {t : State} (h : stepAnswer r = .next t) : ∃ u, r = .next u ∧ t = u.nextTick := by
  cases r with
  | next u => cases h; exact ⟨u, rfl, rfl⟩
  | fault f => cases h
  | refused x => cases h

/-- Settles O15: a halted machine changes nothing, and a running one runs the instruction at pc (O7), to which O17
applies. -/
theorem readsStayTheSameUntilAWrite : Obligations.ReadsStayTheSameUntilAWrite := by
  intro s t i addr wf bytes h notStored
  cases halted : s.halted with
  | true =>
    rw [step_halted halted] at h
    cases h
    rfl
  | false =>
    rw [stepRunsTheEncodedInstruction s i wf halted bytes] at h
    obtain ⟨u, executed, rfl⟩ := stepAnswer_next h
    have kept := memoryChangesOnlyWhereStored i s u addr executed notStored
    exact kept

/-- A byte inserted at an address is what reads there, and no other address reads otherwise. -/
theorem storesByte_insert {s t : State} {a : Word} {v : Byte} (ram : s.cellKind a = .ram)
    (mem : t.mem = Memory.insert s.mem a.toNat v) (cfg : t.cfg = s.cfg) : StoresByte s t a v := by
  constructor
  · exact memRead_listed (cellKind_ne_absent ram cfg) (by rw [mem, lookup_insert_same])
  · intro x hx
    exact memRead_congr x cfg (by rw [mem, lookup_insert_of_ne _ _ hx])

/-- Settles O12: the write inserts one byte and changes no other field. -/
theorem writeThenReadGivesTheByte : Obligations.WriteThenReadGivesTheByte := by
  intro s addr v ram
  exact ⟨_, memWrite_ram v ram, storesByte_insert ram rfl rfl, rfl⟩

/-! ### Flags -/

/-- The flags that are not listed as written are kept (10_state.md R19). -/
def FlagsKept (s : State) (i : Instr) (t : State) : Prop :=
  (writesSzp s i = false → t.flags.s = s.flags.s ∧ t.flags.z = s.flags.z ∧ t.flags.p = s.flags.p) ∧
    (writesCarry s i = false → t.flags.cy = s.flags.cy)

theorem flagsKept_of_eq {s t : State} {i : Instr} (h : t.flags = s.flags) : FlagsKept s i t := by
  simp [FlagsKept, h]

theorem storePair_flags {s t : State} {rp : StackPair} (h : storePair s rp = .next t) : t.flags = s.flags := by
  obtain ⟨u, stored, rfl⟩ := storePair_next h
  obtain ⟨-, flags, -⟩ := stackStore_same stored
  exact flags

theorem loadPair_flags {s t : State} {rp : StackPair} (h : loadPair s rp = .next t) (hrp : rp ≠ .psw) :
    t.flags = s.flags := by
  obtain ⟨w, u, loaded, rfl⟩ := loadPair_next h
  obtain ⟨-, flags, -⟩ := stackLoad_same loaded
  cases rp with
  | psw => exact absurd rfl hrp
  | bc | de | hl => exact flags

theorem pop_flagsKept {s t : State} {rp : StackPair} (h : exec (.pop rp) s = .next t) : FlagsKept s (.pop rp) t := by
  rw [exec_pop] at h
  split at h <;> rename_i loads
  · by_cases hrp : rp = .psw
    · simp [FlagsKept, writesSzp, writesCarry, hrp, loads]
    · exact flagsKept_of_eq (loadPair_flags h hrp)
  · exact flagsKept_of_eq (storePair_flags h)

theorem push_flagsKept {s t : State} {rp : StackPair} (h : exec (.push rp) s = .next t) :
    FlagsKept s (.push rp) t := by
  rw [exec_push] at h
  split at h <;> rename_i loads
  · exact flagsKept_of_eq (storePair_flags h)
  · by_cases hrp : rp = .psw
    · simp [FlagsKept, writesSzp, writesCarry, hrp, loads]
    · exact flagsKept_of_eq (loadPair_flags h hrp)

/-- Settles O19: an instruction writes all four flags, S, Z and P, CY, or none. -/
theorem flagsChangeOnlyWhereListed : Obligations.FlagsChangeOnlyWhereListed := by
  intro i s t h
  change FlagsKept s i t
  cases i with
  | add _ | adc _ | sub _ | sbb _ | ana _ | xra _ | ora _ | cmp _ => exact ⟨nofun, nofun⟩
  | adi _ | aci _ | sui _ | sbi _ | ani _ | xri _ | ori _ | cpi _ => exact ⟨nofun, nofun⟩
  | inr dst | dcr dst =>
    obtain ⟨v, u, -, written, rfl⟩ := changeOperand_next h
    obtain ⟨flags, -⟩ := writeOperand_same written
    have carry : u.flags.cy = s.flags.cy := by rw [flags]
    exact ⟨nofun, fun _ => carry⟩
  | rlc | rrc | ral | rar | stc | cmc | dad _ => cases h; exact ⟨fun _ => ⟨rfl, rfl, rfl⟩, nofun⟩
  | cma => cases h; exact flagsKept_of_eq rfl
  | inx rp | dcx rp | lxi rp _ => cases h; exact flagsKept_of_eq (by simp)
  | jmp _ => cases h; exact flagsKept_of_eq rfl
  | jnz _ | jz _ | jnc _ | jc _ | jpo _ | jpe _ | jp _ | jm _ =>
    obtain ⟨pc, rfl⟩ := jumpIf_same h
    exact flagsKept_of_eq rfl
  | mov dst src =>
    obtain ⟨v, u, written, rfl⟩ := execMov_next h
    obtain ⟨flags, -⟩ := writeOperand_same written
    exact flagsKept_of_eq flags
  | mvi dst imm =>
    obtain ⟨u, written, rfl⟩ := execMvi_next h
    obtain ⟨flags, -⟩ := writeOperand_same written
    exact flagsKept_of_eq flags
  | lda addr => obtain ⟨v, rfl⟩ := exec_lda_next h; exact flagsKept_of_eq rfl
  | sta addr => rw [exec_sta_next h]; exact flagsKept_of_eq rfl
  | pop rp => exact pop_flagsKept h
  | push rp => exact push_flagsKept h
  | call w =>
    obtain ⟨u, stored, rfl⟩ := callTo_next h
    obtain ⟨-, flags, -⟩ := stackStore_same stored
    exact flagsKept_of_eq flags
  | cnz w | cz w | cnc w | cc w | cpo w | cpe w | cp w | cm w =>
    obtain ⟨-, flags, -⟩ := callIf_same h
    exact flagsKept_of_eq flags
  | ret =>
    obtain ⟨w, u, loaded, rfl⟩ := returnNow_next h
    obtain ⟨-, flags, -⟩ := stackLoad_same loaded
    exact flagsKept_of_eq flags
  | rnz | rz | rnc | rc | rpo | rpe | rp | rm =>
    obtain ⟨-, flags, -⟩ := returnIf_same h
    exact flagsKept_of_eq flags
  | hlt | inPort _ | outPort _ | nop => cases h; exact flagsKept_of_eq rfl

/-! ### Registers and SP -/

/-- The registers that are no destination, and SP where it is not listed as written, are kept (10_state.md R12, R21). -/
def RegistersKept (s : State) (i : Instr) (t : State) : Prop :=
  (∀ q, writesRegister s q i = false → t.reg q = s.reg q) ∧ (writesSp s i = false → t.sp = s.sp)

theorem registersKept_of_eq {s t : State} {i : Instr} (regs : ∀ q, t.reg q = s.reg q) (sp : t.sp = s.sp) :
    RegistersKept s i t :=
  ⟨fun q _ => regs q, fun _ => sp⟩

theorem reg_of_ne_a {s t : State} {q : Reg} (hq : (q == .a) = false)
    (same : t.b = s.b ∧ t.c = s.c ∧ t.d = s.d ∧ t.e = s.e ∧ t.h = s.h ∧ t.l = s.l) : t.reg q = s.reg q := by
  obtain ⟨b, c, d, e, h, l⟩ := same
  cases q with
  | b => exact b
  | c => exact c
  | d => exact d
  | e => exact e
  | h => exact h
  | l => exact l
  | a => cases hq

theorem withOperand_registersKept {s t : State} {src : Operand} {r : Byte → Byte × Bool}
    (h : withOperand s src (fun v => setAccumulator s (r v)) = .next t) :
    (∀ q, (q == .a) = false → t.reg q = s.reg q) ∧ t.sp = s.sp := by
  obtain ⟨v, -, rfl⟩ := withOperand_next h
  exact ⟨fun q hq => reg_of_ne_a hq ⟨rfl, rfl, rfl, rfl, rfl, rfl⟩, rfl⟩

theorem reg_setReg_setReg {q r r' : Reg} (s : State) (v v' : Byte) (hq : (q == r || q == r') = false) :
    ((s.setReg r v).setReg r' v').reg q = s.reg q := by
  rw [Bool.or_eq_false_iff, beq_eq_false_iff_ne, beq_eq_false_iff_ne] at hq
  rw [State.reg_setReg, if_neg hq.2, State.reg_setReg, if_neg hq.1]

theorem reg_setPair {q : Reg} {rp : Pair} (s : State) (w : Word) (hq : inPair q rp = false) :
    (s.setPair rp w).reg q = s.reg q := by
  cases rp with
  | bc => exact reg_setReg_setReg (r := .b) (r' := .c) s (hi8 w) (lo8 w) hq
  | de => exact reg_setReg_setReg (r := .d) (r' := .e) s (hi8 w) (lo8 w) hq
  | hl => exact reg_setReg_setReg (r := .h) (r' := .l) s (hi8 w) (lo8 w) hq
  | sp => cases q <;> rfl

theorem sp_setPair {rp : Pair} (s : State) (w : Word) (hrp : (rp == .sp) = false) : (s.setPair rp w).sp = s.sp := by
  cases rp with
  | sp => cases hrp
  | bc | de | hl => rfl

theorem reg_setStackPair {q : Reg} {rp : StackPair} (s : State) (w : Word) (hq : inStackPair q rp = false) :
    (s.setStackPair rp w).reg q = s.reg q := by
  cases rp with
  | bc => exact reg_setPair (rp := .bc) s w hq
  | de => exact reg_setPair (rp := .de) s w hq
  | hl => exact reg_setPair (rp := .hl) s w hq
  | psw => exact reg_of_ne_a hq ⟨rfl, rfl, rfl, rfl, rfl, rfl⟩

theorem setPair_registersKept {s : State} {rp : Pair} {w len : Word} :
    (∀ q, inPair q rp = false → ((s.setPair rp w).advance len).reg q = s.reg q) ∧
      ((rp == .sp) = false → ((s.setPair rp w).advance len).sp = s.sp) :=
  ⟨fun q hq => (State.reg_advance _ _ q).trans (reg_setPair s w hq), sp_setPair s w⟩

theorem storePair_reg {s t : State} {rp : StackPair} (h : storePair s rp = .next t) (q : Reg) : t.reg q = s.reg q := by
  obtain ⟨u, stored, rfl⟩ := storePair_next h
  obtain ⟨regs, -⟩ := stackStore_same stored
  exact (State.reg_advance u 1#16 q).trans (regs q)

theorem loadPair_reg {s t : State} {rp : StackPair} (h : loadPair s rp = .next t) {q : Reg}
    (hq : inStackPair q rp = false) : t.reg q = s.reg q := by
  obtain ⟨w, u, loaded, rfl⟩ := loadPair_next h
  obtain ⟨regs, -⟩ := stackLoad_same loaded
  rw [State.reg_advance, reg_setStackPair u w hq, regs]

/-- POP and PUSH write SP under either sense, so only their registers are to be shown kept. -/
theorem pop_registersKept {s t : State} {rp : StackPair} (h : exec (.pop rp) s = .next t) :
    RegistersKept s (.pop rp) t := by
  rw [exec_pop] at h
  split at h <;> rename_i loads <;> simp only [RegistersKept, writesRegister, writesSp, stackStores, stackLoads, loads]
  · exact ⟨fun q hq => loadPair_reg h (by simpa using hq), by simp⟩
  · exact ⟨fun q _ => storePair_reg h q, by simp⟩

theorem push_registersKept {s t : State} {rp : StackPair} (h : exec (.push rp) s = .next t) :
    RegistersKept s (.push rp) t := by
  rw [exec_push] at h
  split at h <;> rename_i loads <;> simp only [RegistersKept, writesRegister, writesSp, stackStores, stackLoads, loads]
  · exact ⟨fun q _ => storePair_reg h q, by simp⟩
  · exact ⟨fun q hq => loadPair_reg h (by simpa using hq), by simp⟩

theorem writesSp_condCall (s : State) (w : Word) (cond : Cond) :
    writesSp s (condCall w cond) = condHolds s.flags cond := by
  cases cond <;> simp [writesSp, stackStores, stackLoads, condCall, condHolds]

theorem writesSp_condReturn (s : State) (cond : Cond) : writesSp s (condReturn cond) = condHolds s.flags cond := by
  cases cond <;> simp [writesSp, stackStores, stackLoads, condReturn, condHolds]

theorem callIf_sp {s t : State} {cond : Cond} {w : Word} (h : callIf s cond w = .next t)
    (notTaken : writesSp s (condCall w cond) = false) : t.sp = s.sp := by
  rw [writesSp_condCall] at notTaken
  rcases callIf_next h with ⟨taken, -⟩ | ⟨-, rfl⟩
  · simp [notTaken] at taken
  · rfl

theorem returnIf_sp {s t : State} {cond : Cond} (h : returnIf s cond = .next t)
    (notTaken : writesSp s (condReturn cond) = false) : t.sp = s.sp := by
  rw [writesSp_condReturn] at notTaken
  rcases returnIf_next h with ⟨taken, -⟩ | ⟨-, rfl⟩
  · simp [notTaken] at taken
  · rfl

/-- Settles O20: an instruction writes A, one operand, one pair, SP alone, or no register. -/
theorem registersChangeOnlyWhereListed : Obligations.RegistersChangeOnlyWhereListed := by
  intro i s t h
  change RegistersKept s i t
  cases i with
  | add _ | adc _ | sub _ | sbb _ | ana _ | xra _ | ora _ =>
    obtain ⟨regs, sp⟩ := withOperand_registersKept h
    exact ⟨regs, fun _ => sp⟩
  | cmp _ =>
    obtain ⟨v, -, rfl⟩ := withOperand_next h
    exact registersKept_of_eq (fun q => by cases q <;> rfl) rfl
  | adi _ | aci _ | sui _ | sbi _ | ani _ | xri _ | ori _ | rlc | rrc | ral | rar | cma | inPort _ =>
    cases h
    exact ⟨fun q hq => reg_of_ne_a hq ⟨rfl, rfl, rfl, rfl, rfl, rfl⟩, fun _ => rfl⟩
  | lda addr =>
    obtain ⟨v, rfl⟩ := exec_lda_next h
    exact ⟨fun q hq => reg_of_ne_a hq ⟨rfl, rfl, rfl, rfl, rfl, rfl⟩, fun _ => rfl⟩
  | cpi _ | stc | cmc | hlt | outPort _ | nop | jmp _ =>
    cases h
    exact registersKept_of_eq (fun q => by cases q <;> rfl) rfl
  | inr dst | dcr dst =>
    obtain ⟨v, u, -, written, rfl⟩ := changeOperand_next h
    obtain ⟨-, sp, -⟩ := writeOperand_same written
    exact ⟨fun q hq => by rw [State.reg_advance, ← reg_writeOperand written hq]; cases q <;> rfl, fun _ => sp⟩
  | mov dst src =>
    obtain ⟨v, u, written, rfl⟩ := execMov_next h
    obtain ⟨-, sp, -⟩ := writeOperand_same written
    exact ⟨fun q hq => by rw [State.reg_advance, reg_writeOperand written hq], fun _ => sp⟩
  | mvi dst imm =>
    obtain ⟨u, written, rfl⟩ := execMvi_next h
    obtain ⟨-, sp, -⟩ := writeOperand_same written
    exact ⟨fun q hq => by rw [State.reg_advance, reg_writeOperand written hq], fun _ => sp⟩
  | dad rp =>
    cases h
    exact ⟨fun q hq => by rw [← reg_setPair (rp := .hl) s _ hq]; cases q <;> rfl, fun _ => rfl⟩
  | inx rp | dcx rp | lxi rp _ => cases h; exact setPair_registersKept
  | sta addr => rw [exec_sta_next h]; exact registersKept_of_eq (fun q => by cases q <;> rfl) rfl
  | jnz _ | jz _ | jnc _ | jc _ | jpo _ | jpe _ | jp _ | jm _ =>
    obtain ⟨pc, rfl⟩ := jumpIf_same h
    exact registersKept_of_eq (fun q => by cases q <;> rfl) rfl
  | pop rp => exact pop_registersKept h
  | push rp => exact push_registersKept h
  | call w =>
    obtain ⟨u, stored, rfl⟩ := callTo_next h
    obtain ⟨regs, -⟩ := stackStore_same stored
    exact ⟨fun q _ => (State.reg_goto u w q).trans (regs q), nofun⟩
  | cnz w | cz w | cnc w | cc w | cpo w | cpe w | cp w | cm w =>
    obtain ⟨regs, -⟩ := callIf_same h
    have sp := callIf_sp h
    exact ⟨fun q _ => regs q, sp⟩
  | ret =>
    obtain ⟨w, u, loaded, rfl⟩ := returnNow_next h
    obtain ⟨regs, -⟩ := stackLoad_same loaded
    exact ⟨fun q _ => (State.reg_goto u w q).trans (regs q), nofun⟩
  | rnz | rz | rnc | rc | rpo | rpe | rp | rm =>
    obtain ⟨regs, -⟩ := returnIf_same h
    have sp := returnIf_sp h
    exact ⟨fun q _ => regs q, sp⟩

end Sys2Proof.Proofs.MachineFrame

/-! POP, PUSH, calls and returns (44_stack.md): the word on the stack, its faults in order, and each instruction by the
shared operation it is. -/

namespace Sys2Proof.Proofs.Stack

open Sys2Proof Sys2Proof.Machine Sys2Proof.Claims
open Sys2Proof.Proofs.InstructionAnswers Sys2Proof.Proofs.MemoryFrame Sys2Proof.Proofs.MachineFrame

/-! ### The word below SP and the word at SP (R210) -/

theorem sub_two_add_one (a : Word) : a - 2#16 + 1#16 = a - 1#16 := by bv_omega

theorem sub_two_add_two (a : Word) : a - 2#16 + 2#16 = a := by bv_omega

theorem stackStore_storesWord {s u : State} {w : Word} (h : stackStore s w = .ok u) :
    StoresWord s u (s.sp - 2#16) w := by
  obtain ⟨ram1, ram2, rfl⟩ := stackStore_ok h
  have distinct := sub_one_ne_sub_two s.sp
  rw [StoresWord, sub_two_add_one]
  refine ⟨?low, ?high, fun x notLow notHigh => ?frame⟩
  case low => exact memRead_listed (cellKind_ne_absent ram2 rfl) (lookup_insert_same _ _ _)
  case high =>
    refine memRead_listed (cellKind_ne_absent ram1 rfl) ?_
    exact (lookup_insert_of_ne _ _ distinct).trans (lookup_insert_same _ _ _)
  case frame =>
    exact memRead_congr x rfl ((lookup_insert_of_ne _ _ notLow).trans (lookup_insert_of_ne _ _ notHigh))

/-- Where both cells are RAM a stack store is done, and changes memory and SP alone. -/
theorem stackStore_done {s : State} (w : Word) (ram1 : s.cellKind (s.sp - 1#16) = .ram)
    (ram2 : s.cellKind (s.sp - 2#16) = .ram) :
    ∃ u, stackStore s w = .ok u ∧ StoresWord s u (s.sp - 2#16) w ∧ u = { s with mem := u.mem, sp := s.sp - 2#16 } := by
  have done := stackStore_ram w ram1 ram2
  exact ⟨_, done, stackStore_storesWord done, rfl⟩

theorem stackLoad_of_reads {s : State} {lo hi : Byte} (low : memRead s s.sp = .ok lo)
    (high : memRead s (s.sp + 1#16) = .ok hi) : stackLoad s = .ok (hi ++ lo, { s with sp := s.sp + 2#16 }) := by
  simp only [stackLoad, low, high]

/-- A stack load gives back the word that a stack store put there. -/
theorem stackLoad_of_stackStore {s u v : State} {w : Word} (stored : stackStore s w = .ok u) (mem : v.mem = u.mem)
    (cfg : v.cfg = u.cfg) (sp : v.sp = u.sp) : stackLoad v = .ok (w, { v with sp := s.sp }) := by
  obtain ⟨low, high, -⟩ := stackStore_storesWord stored
  have sp' : v.sp = s.sp - 2#16 := by
    obtain ⟨-, -, rfl⟩ := stackStore_ok stored
    exact sp
  have sameReads (a : Word) : memRead v a = memRead u a := memRead_congr a cfg (by rw [mem])
  rw [← sameReads, ← sp'] at low high
  rw [stackLoad_of_reads low high, sp', sub_two_add_two]
  exact congrArg (fun x => Except.ok (x, _)) (hi8_append_lo8 w)

theorem stackStore_first_fault {s : State} (w : Word) (first : s.cellKind (s.sp - 1#16) ≠ .ram) :
    stackStore s w = .error (.unmappedAccess (s.sp - 1#16)) := by
  simp only [stackStore, memWrite_not_ram _ first]

theorem stackStore_second_fault {s : State} (w : Word) (first : s.cellKind (s.sp - 1#16) = .ram)
    (second : s.cellKind (s.sp - 2#16) ≠ .ram) : stackStore s w = .error (.unmappedAccess (s.sp - 2#16)) := by
  have second' : State.cellKind { s with mem := Memory.insert s.mem (s.sp - 1#16).toNat (hi8 w) }
      (s.sp - 2#16) ≠ .ram := second
  simp only [stackStore, memWrite_ram _ first, memWrite_not_ram _ second']

theorem stackLoad_first_fault {s : State} {f : Fault} (fault : memRead s s.sp = .error f) :
    stackLoad s = .error f := by
  simp only [stackLoad, fault]

theorem stackLoad_second_fault {s : State} {lo : Byte} {f : Fault} (low : memRead s s.sp = .ok lo)
    (fault : memRead s (s.sp + 1#16) = .error f) : stackLoad s = .error f := by
  simp only [stackLoad, low, fault]

/-! ### Every instruction that stores on the stack begins with the store, every one that loads with the load -/

/-- The answer is that of a stack store and what follows it. -/
def BeginsWithStore (s : State) (r : Result) : Prop := ∃ w k, r = attempt (stackStore s w) k

/-- The answer is that of a stack load and what follows it. -/
def BeginsWithLoad (s : State) (r : Result) : Prop := ∃ k, r = attempt (stackLoad s) k

theorem callIf_beginsWithStore {s : State} {cond : Cond} {w : Word} (h : stackStores s (condCall w cond) = true) :
    BeginsWithStore s (callIf s cond w) := by
  rw [stackStores_condCall] at h
  rw [callIf, if_pos h]
  exact ⟨_, _, rfl⟩

theorem stackLoads_condReturn (s : State) (cond : Cond) :
    stackLoads s (condReturn cond) = condHolds s.flags cond := by
  cases cond <;> simp [stackLoads, condReturn, condHolds]

theorem returnIf_beginsWithLoad {s : State} {cond : Cond} (h : stackLoads s (condReturn cond) = true) :
    BeginsWithLoad s (returnIf s cond) := by
  rw [stackLoads_condReturn] at h
  rw [returnIf, if_pos h]
  exact ⟨_, rfl⟩

theorem exec_beginsWithStore {s : State} {i : Instr} (h : stackStores s i = true) : BeginsWithStore s (exec i s) := by
  cases i with
  | pop rp =>
    have stores : popLoads s = false := by simpa [stackStores] using h
    rw [exec_pop, stores]
    exact ⟨_, _, rfl⟩
  | push rp =>
    have stores : popLoads s = true := h
    rw [exec_push, stores]
    exact ⟨_, _, rfl⟩
  | call w => exact ⟨_, _, rfl⟩
  | cnz w | cz w | cnc w | cc w | cpo w | cpe w | cp w | cm w => exact callIf_beginsWithStore h
  | _ => cases h

theorem exec_beginsWithLoad {s : State} {i : Instr} (h : stackLoads s i = true) : BeginsWithLoad s (exec i s) := by
  cases i with
  | pop rp =>
    have loads : popLoads s = true := h
    rw [exec_pop, loads]
    exact ⟨_, rfl⟩
  | push rp =>
    have loads : popLoads s = false := by simpa [stackLoads] using h
    rw [exec_push, loads]
    exact ⟨_, rfl⟩
  | ret => exact ⟨_, rfl⟩
  | rnz | rz | rnc | rc | rpo | rpe | rp | rm => exact returnIf_beginsWithLoad h
  | _ => cases h

/-- Settles O56: the store comes first in the answer, and its first failing write is its fault. -/
theorem stackStoreFaultsInOrder : Obligations.StackStoreFaultsInOrder := by
  intro s i stores
  obtain ⟨w, k, answer⟩ := exec_beginsWithStore stores
  constructor
  · intro first
    rw [answer, stackStore_first_fault w first, attempt_error]
  · intro first second
    rw [answer, stackStore_second_fault w first second, attempt_error]

/-- Settles O57: the load comes first in the answer, and its first failing read is its fault. -/
theorem stackLoadFaultsInOrder : Obligations.StackLoadFaultsInOrder := by
  intro s i f loads
  obtain ⟨k, answer⟩ := exec_beginsWithLoad loads
  constructor
  · intro fault
    rw [answer, stackLoad_first_fault fault, attempt_error]
  · intro lo low fault
    rw [answer, stackLoad_second_fault low fault, attempt_error]

/-! ### POP and PUSH under the source's sense (R211 to R213) -/

theorem popLoads_source {s : State} (source : s.cfg.stackSense = .source) : popLoads s = false := by
  rw [popLoads, source]; rfl

theorem exec_pop_source {s : State} (source : s.cfg.stackSense = .source) (rp : StackPair) :
    exec (.pop rp) s = storePair s rp := by
  rw [exec_pop, popLoads_source source]; rfl

theorem exec_push_source {s : State} (source : s.cfg.stackSense = .source) (rp : StackPair) :
    exec (.push rp) s = loadPair s rp := by
  rw [exec_push, popLoads_source source]; rfl

/-- F as a sum of its bits (10_state.md R17). -/
theorem toByte_eq (f : Flags) :
    f.toByte = BitVec.ofNat 8 (128 * f.s.toNat + 64 * f.z.toNat + 4 * f.p.toNat + f.cy.toNat) := by
  obtain ⟨s, z, p, cy⟩ := f
  cases s <;> cases z <;> cases p <;> cases cy <;> rfl

theorem stackPairIs_eq (s : State) (rp : StackPair) : stackPairIs s rp = s.stackPair rp := by
  cases rp with
  | psw => exact congrArg (s.a ++ ·) (toByte_eq s.flags).symm
  | bc | de | hl => rfl

/-- Settles O49: under `source` POP is the stack store of the pair. -/
theorem popStoresThePair : Obligations.PopStoresThePair := by
  intro s rp source ram1 ram2
  obtain ⟨u, stored, word, same⟩ := stackStore_done (s.stackPair rp) ram1 ram2
  refine ⟨u.advance 1#16, ?pops, ?word, ?frame⟩
  case pops => rw [exec_pop_source source, storePair, stored, attempt_ok]
  case word => rw [stackPairIs_eq]; exact word
  case frame => rw [same]; rfl

theorem loadPair_of_stackLoad {s u : State} {w : Word} (loaded : stackLoad s = .ok (w, u)) (rp : StackPair) :
    loadPair s rp = .next ((u.setStackPair rp w).advance 1#16) := by
  rw [loadPair, loaded, attempt_ok]

/-- The flags from the bits of F, in integers (10_state.md R17). -/
theorem ofByte_eq (v : Byte) : Flags.ofByte v =
    { s := decide (128 ≤ v.toNat), z := decide (64 ≤ v.toNat % 128), p := decide (4 ≤ v.toNat % 8),
      cy := decide (v.toNat % 2 = 1) } := by
  have hv := v.isLt
  simp only [Flags.ofByte, BitVec.getLsbD, Nat.testBit_eq_decide_div_mod_eq, Flags.mk.injEq, decide_eq_decide]
  omega

/-- Settles O50: under `source` PUSH is the stack load of the pair. -/
theorem pushLoadsThePair : Obligations.PushLoadsThePair := by
  intro s rp lo hi source low high
  rw [exec_push_source source, loadPair_of_stackLoad (stackLoad_of_reads low high)]
  cases rp <;>
    simp only [State.setStackPair, State.setPair, State.advance, hi8_append, lo8_append, ofByte_eq]

theorem stackPair_setStackPair (s v : State) (rp : StackPair) :
    (v.setStackPair rp (s.stackPair rp)).stackPair rp = s.stackPair rp := by
  cases rp with
  | bc => exact hi8_append_lo8 s.bc
  | de => exact hi8_append_lo8 s.de
  | hl => exact hi8_append_lo8 s.hl
  | psw =>
    change hi8 s.psw ++ (Flags.ofByte (lo8 s.psw)).toByte = s.psw
    rw [State.psw, hi8_append, lo8_append, Flags.ofByte_toByte]

/-- Settles O55: the load reads the word that the store left, and the pair written from it is the pair stored. -/
theorem pushAfterPopRestoresThePair : Obligations.PushAfterPopRestoresThePair := by
  intro s t v rp source popped mem cfg sp
  rw [exec_pop_source source] at popped
  obtain ⟨u, stored, rfl⟩ := storePair_next popped
  have loaded := stackLoad_of_stackStore stored mem cfg sp
  have source' : v.cfg.stackSense = .source := by
    obtain ⟨-, -, -, -, kept, -⟩ := stackStore_same stored
    rw [cfg, State.advance_cfg, kept, source]
  have pushed := (exec_push_source source' rp).trans (loadPair_of_stackLoad loaded rp)
  refine ⟨_, pushed, ?pair, by simp, by simp, fun q hq => ?regs, fun hrp => ?flags, by simp [OutsideRegistersSame]⟩
  case pair => rw [stackPairIs_eq, stackPairIs_eq]; exact stackPair_setStackPair s _ rp
  case regs =>
    rw [State.reg_advance, reg_setStackPair _ _ hq]
    cases q <;> rfl
  case flags =>
    cases rp with
    | psw => exact absurd rfl hrp
    | bc | de | hl => rfl

/-! ### Calls and returns (R214 to R231) -/

theorem callTo_done {s : State} (target : Word) (ram1 : s.cellKind (s.sp - 1#16) = .ram)
    (ram2 : s.cellKind (s.sp - 2#16) = .ram) :
    ∃ t, callTo s target = .next t ∧ StoresWord s t (s.sp - 2#16) (s.pc + 3#16) ∧
      t = { s with mem := t.mem, sp := s.sp - 2#16, pc := target } := by
  obtain ⟨u, stored, word, same⟩ := stackStore_done (s.pc + 3#16) ram1 ram2
  refine ⟨u.goto target, by rw [callTo, stored, attempt_ok], word, ?_⟩
  rw [same]; rfl

theorem callsWhen_of_callIf {s : State} {cond : Cond} {i : Instr} {op : Byte} {target : Word}
    (bytes : encode i = threeBytes op target) (answer : exec i s = callIf s cond target) :
    CallsWhen s i op (condHolds s.flags cond) target := by
  refine ⟨bytes, fun taken ram1 ram2 => ?_, fun notTaken => ?_⟩
  · rw [answer, callIf, if_pos taken]
    exact callTo_done target ram1 ram2
  · rw [answer, callIf, notTaken]
    rfl

/-- Settles O52: CALL is the call taken, the other eight are `callIf` of their condition. -/
theorem callsSaveTheNextAddress : Obligations.CallsSaveTheNextAddress := by
  intro s w
  refine ⟨⟨rfl, fun _ => callTo_done w, nofun⟩, ?_⟩
  exact ⟨callsWhen_of_callIf (cond := .nz) rfl rfl, callsWhen_of_callIf (cond := .z) rfl rfl,
    callsWhen_of_callIf (cond := .nc) rfl rfl, callsWhen_of_callIf (cond := .c) rfl rfl,
    callsWhen_of_callIf (cond := .po) rfl rfl, callsWhen_of_callIf (cond := .pe) rfl rfl,
    callsWhen_of_callIf (cond := .p) rfl rfl, callsWhen_of_callIf (cond := .m) rfl rfl⟩

theorem returnNow_done {s : State} {lo hi : Byte} (low : memRead s s.sp = .ok lo)
    (high : memRead s (s.sp + 1#16) = .ok hi) :
    returnNow s = .next { s with sp := s.sp + 2#16, pc := hi ++ lo } := by
  rw [returnNow, stackLoad_of_reads low high]
  rfl

theorem returnsWhen_of_returnIf {s : State} {cond : Cond} {i : Instr} {op : Byte} (bytes : encode i = [op])
    (answer : exec i s = returnIf s cond) : ReturnsWhen s i op (condHolds s.flags cond) := by
  refine ⟨bytes, fun taken lo hi low high => ?_, fun notTaken => ?_⟩
  · rw [answer, returnIf, if_pos taken]
    exact returnNow_done low high
  · rw [answer, returnIf, notTaken]
    rfl

/-- Settles O53: RET is the return taken, the other eight are `returnIf` of their condition. -/
theorem returnsLoadThePc : Obligations.ReturnsLoadThePc := by
  intro s
  refine ⟨⟨rfl, fun _ _ _ => returnNow_done, nofun⟩, ?_⟩
  exact ⟨returnsWhen_of_returnIf (cond := .nz) rfl rfl, returnsWhen_of_returnIf (cond := .z) rfl rfl,
    returnsWhen_of_returnIf (cond := .nc) rfl rfl, returnsWhen_of_returnIf (cond := .c) rfl rfl,
    returnsWhen_of_returnIf (cond := .po) rfl rfl, returnsWhen_of_returnIf (cond := .pe) rfl rfl,
    returnsWhen_of_returnIf (cond := .p) rfl rfl, returnsWhen_of_returnIf (cond := .m) rfl rfl⟩

/-- Settles O54: RET loads the word that CALL stored. -/
theorem returnUndoesCall : Obligations.ReturnUndoesCall := by
  intro s w ram1 ram2
  obtain ⟨t, stored, ⟨-, -, frame⟩, same⟩ := stackStore_done (s.pc + 3#16) ram1 ram2
  have called : exec (.call w) s = .next (t.goto w) := by
    change callTo s w = _
    rw [callTo, stored, attempt_ok]
  have loaded := stackLoad_of_stackStore (v := t.goto w) stored rfl rfl rfl
  have returned : exec .ret (t.goto w) = .next ({ t.goto w with sp := s.sp }.goto (s.pc + 3#16)) := by
    change returnNow (t.goto w) = _
    rw [returnNow, loaded, attempt_ok]
  refine ⟨t.goto w, _, called, rfl, returned, by rw [same]; rfl, fun x notHigh notLow => ?_⟩
  rw [sub_two_add_one] at frame
  exact frame x notLow notHigh

end Sys2Proof.Proofs.Stack

/-! What an instruction does not look at: the port trace (20_memory.md R52) and, but for POP and PUSH, the sense of the
stack opcodes (44_stack.md R211). Both are changed at once, and every shared operation commutes with the change. -/

namespace Sys2Proof.Proofs.Unseen

open Sys2Proof Sys2Proof.Machine Sys2Proof.Claims
open Sys2Proof.Proofs.MemoryFrame Sys2Proof.Proofs.MachineFrame Sys2Proof.Proofs.Stack

/-- `s` with another trace and another sense of the stack opcodes. -/
def reframe (tr : List PortEvent) (sense : StackSense) (s : State) : State :=
  { s with trace := tr, cfg := { s.cfg with stackSense := sense } }

/-! ### The shared operations commute with `reframe` -/

theorem onNext_attempt {α : Type} (g : State → State) (r : Except Fault α) (k : α → Result) :
    onNext g (attempt r k) = attempt r fun v => onNext g (k v) := by
  cases r <;> rfl

theorem attempt_map {α β : Type} (f : α → β) (r : Except Fault α) (k : β → Result) :
    attempt (r.map f) k = attempt r fun v => k (f v) := by
  cases r <;> rfl

section
variable (tr : List PortEvent) (sense : StackSense) (s : State)

theorem memRead_reframe (a : Word) : memRead (reframe tr sense s) a = memRead s a := rfl

theorem memWrite_reframe (a : Word) (v : Byte) :
    memWrite (reframe tr sense s) a v = (memWrite s a v).map (reframe tr sense) := by
  have kind : (reframe tr sense s).cellKind a = s.cellKind a := rfl
  unfold memWrite
  rw [kind]
  cases s.cellKind a <;> rfl

theorem reg_reframe (r : Reg) : (reframe tr sense s).reg r = s.reg r := by
  cases r <;> rfl

theorem setReg_reframe (r : Reg) (v : Byte) : (reframe tr sense s).setReg r v = reframe tr sense (s.setReg r v) := by
  cases r <;> rfl

theorem setStackPair_reframe (rp : StackPair) (w : Word) :
    (reframe tr sense s).setStackPair rp w = reframe tr sense (s.setStackPair rp w) := by
  cases rp <;> rfl

theorem stackPair_reframe (rp : StackPair) : (reframe tr sense s).stackPair rp = s.stackPair rp := by
  cases rp <;> rfl

theorem readOperand_reframe (o : Operand) : readOperand (reframe tr sense s) o = readOperand s o := by
  cases o with
  | reg r => rw [readOperand_reg, readOperand_reg, reg_reframe]
  | m => rfl

theorem writeOperand_reframe (o : Operand) (v : Byte) :
    writeOperand (reframe tr sense s) o v = (writeOperand s o v).map (reframe tr sense) := by
  cases o with
  | reg r => rw [writeOperand_reg, writeOperand_reg, setReg_reframe]; rfl
  | m => exact memWrite_reframe tr sense s s.hl v

theorem stackStore_reframe (w : Word) :
    stackStore (reframe tr sense s) w = (stackStore s w).map (reframe tr sense) := by
  have sp : (reframe tr sense s).sp = s.sp := rfl
  simp only [stackStore, sp, memWrite_reframe]
  cases memWrite s (s.sp - 1#16) (hi8 w) with
  | error f => rfl
  | ok s1 =>
    simp only [Except.map, memWrite_reframe]
    cases memWrite s1 (s.sp - 2#16) (lo8 w) <;> rfl

theorem stackLoad_reframe :
    stackLoad (reframe tr sense s) = (stackLoad s).map fun r => (r.1, reframe tr sense r.2) := by
  have sp : (reframe tr sense s).sp = s.sp := rfl
  simp only [stackLoad, sp, memRead_reframe]
  cases memRead s s.sp with
  | error f => rfl
  | ok lo => cases memRead s (s.sp + 1#16) <;> rfl

theorem withOperand_reframe (src : Operand) {f g : Byte → State} (h : ∀ v, g v = reframe tr sense (f v)) :
    withOperand (reframe tr sense s) src g = onNext (reframe tr sense) (withOperand s src f) := by
  rw [withOperand, withOperand, readOperand_reframe, onNext_attempt]
  congr 1
  funext v
  rw [h]
  rfl

theorem changeOperand_reframe (dst : Operand) (f : Byte → Byte) :
    changeOperand (reframe tr sense s) dst f = onNext (reframe tr sense) (changeOperand s dst f) := by
  simp only [changeOperand, readOperand_reframe, onNext_attempt, writeOperand_reframe, attempt_map]
  rfl

theorem jumpIf_reframe (cond : Cond) (w : Word) :
    jumpIf (reframe tr sense s) cond w = onNext (reframe tr sense) (jumpIf s cond w) := by
  have flags : (reframe tr sense s).flags = s.flags := rfl
  rw [jumpIf, jumpIf, flags]
  cases condHolds s.flags cond <;> rfl

theorem storePair_reframe (rp : StackPair) :
    storePair (reframe tr sense s) rp = onNext (reframe tr sense) (storePair s rp) := by
  rw [storePair, storePair, stackPair_reframe, stackStore_reframe, attempt_map, onNext_attempt]
  rfl

theorem loadPair_reframe (rp : StackPair) :
    loadPair (reframe tr sense s) rp = onNext (reframe tr sense) (loadPair s rp) := by
  simp only [loadPair, stackLoad_reframe, attempt_map, onNext_attempt, setStackPair_reframe]
  rfl

theorem callTo_reframe (w : Word) :
    callTo (reframe tr sense s) w = onNext (reframe tr sense) (callTo s w) := by
  simp only [callTo, stackStore_reframe, attempt_map, onNext_attempt]
  rfl

theorem callIf_reframe (cond : Cond) (w : Word) :
    callIf (reframe tr sense s) cond w = onNext (reframe tr sense) (callIf s cond w) := by
  have flags : (reframe tr sense s).flags = s.flags := rfl
  rw [callIf, callIf, flags]
  cases condHolds s.flags cond
  · rfl
  · exact callTo_reframe tr sense s w

theorem returnNow_reframe :
    returnNow (reframe tr sense s) = onNext (reframe tr sense) (returnNow s) := by
  simp only [returnNow, stackLoad_reframe, attempt_map, onNext_attempt]
  rfl

theorem returnIf_reframe (cond : Cond) :
    returnIf (reframe tr sense s) cond = onNext (reframe tr sense) (returnIf s cond) := by
  have flags : (reframe tr sense s).flags = s.flags := rfl
  rw [returnIf, returnIf, flags]
  cases condHolds s.flags cond
  · rfl
  · exact returnNow_reframe tr sense s

theorem execMov_reframe (dst src : Operand) :
    execMov dst src (reframe tr sense s) = onNext (reframe tr sense) (execMov dst src s) := by
  cases dst with
  | reg r =>
    simp only [execMov, readOperand_reframe, onNext_attempt, setReg_reframe]
    rfl
  | m =>
    cases src with
    | reg r =>
      simp only [execMov, reg_reframe, writeOperand_reframe, attempt_map, onNext_attempt]
      rfl
    | m => rfl

theorem execMvi_reframe (dst : Operand) (imm : Byte) :
    execMvi dst imm (reframe tr sense s) = onNext (reframe tr sense) (execMvi dst imm s) := by
  simp only [execMvi, writeOperand_reframe, attempt_map, onNext_attempt]
  rfl

end

/-! ### Every instruction -/

/-- No instruction but IN and OUT looks at the trace, and none but POP and PUSH at the sense of the stack opcodes. -/
theorem exec_reframe (tr : List PortEvent) (sense : StackSense) (i : Instr) (s : State)
    (notPort : ∀ p, i ≠ .inPort p ∧ i ≠ .outPort p) (notStack : ∀ rp, i ≠ .pop rp ∧ i ≠ .push rp) :
    exec i (reframe tr sense s) = onNext (reframe tr sense) (exec i s) := by
  cases i with
  | add src | adc src | sub src | sbb src | ana src | xra src | ora src | cmp src =>
    exact withOperand_reframe tr sense s src fun _ => rfl
  | adi _ | aci _ | sui _ | sbi _ | ani _ | xri _ | ori _ | cpi _ => rfl
  | inr dst | dcr dst => exact changeOperand_reframe tr sense s dst _
  | rlc | rrc | ral | rar | cma | stc | cmc => rfl
  | dad rp | inx rp | dcx rp | lxi rp _ => cases rp <;> rfl
  | jmp w => rfl
  | jnz w | jz w | jnc w | jc w | jpo w | jpe w | jp w | jm w => exact jumpIf_reframe tr sense s _ w
  | mov dst src => exact execMov_reframe tr sense s dst src
  | mvi dst imm => exact execMvi_reframe tr sense s dst imm
  | lda addr =>
    change attempt (memRead s addr) _ = onNext _ (attempt (memRead s addr) _)
    rw [onNext_attempt]
    rfl
  | sta addr =>
    change attempt (memWrite (reframe tr sense s) addr s.a) _ = onNext _ (attempt (memWrite s addr s.a) _)
    rw [memWrite_reframe, attempt_map, onNext_attempt]
    rfl
  | pop rp => exact absurd rfl (notStack rp).1
  | push rp => exact absurd rfl (notStack rp).2
  | call w => exact callTo_reframe tr sense s w
  | cnz w | cz w | cnc w | cc w | cpo w | cpe w | cp w | cm w => exact callIf_reframe tr sense s _ w
  | ret => exact returnNow_reframe tr sense s
  | rnz | rz | rnc | rc | rpo | rpe | rp | rm => exact returnIf_reframe tr sense s _
  | inPort p => exact absurd rfl (notPort p).1
  | outPort p => exact absurd rfl (notPort p).2
  | hlt | nop => rfl

theorem onNext_congr {g g' : State → State} {r : Result} (h : ∀ t, r = .next t → g t = g' t) :
    onNext g r = onNext g' r := by
  cases r with
  | next t => exact congrArg Host.Outcome.next (h t rfl)
  | fault f => rfl
  | refused x => rfl

/-- Settles O22: the sense stays the state's own, so POP and PUSH are covered too. -/
theorem outsideInAndOutTheTraceIsIgnored : Obligations.OutsideInAndOutTheTraceIsIgnored := by
  intro i s tr notPort
  have sameSense : onNext (fun t => { t with trace := tr }) (exec i s) =
      onNext (reframe tr s.cfg.stackSense) (exec i s) := by
    refine onNext_congr fun t h => ?_
    rw [reframe, ← exec_cfg h]
  have loads : popLoads (reframe tr s.cfg.stackSense s) = popLoads s := rfl
  rw [sameSense]
  change exec i (reframe tr s.cfg.stackSense s) = _
  by_cases isStack : ∃ rp, i = .pop rp ∨ i = .push rp
  · obtain ⟨rp, rfl | rfl⟩ := isStack
    · rw [exec_pop, exec_pop, loads, storePair_reframe, loadPair_reframe, ← apply_ite]
    · rw [exec_push, exec_push, loads, storePair_reframe, loadPair_reframe, ← apply_ite]
  · exact exec_reframe tr _ i s notPort fun rp => ⟨fun e => isStack ⟨rp, .inl e⟩, fun e => isStack ⟨rp, .inr e⟩⟩

/-- Settles O51: the sense is looked at by POP and PUSH alone, which take each other's operation. -/
theorem stackSenseExchangesPopAndPush : Obligations.StackSenseExchangesPopAndPush := by
  intro s source intel
  have sameTrace {i : Instr} (notPort : ∀ p, i ≠ .inPort p ∧ i ≠ .outPort p) :
      onNext intel (exec i s) = onNext (reframe s.trace .intel8085) (exec i s) := by
    refine onNext_congr fun t h => ?_
    obtain ⟨-, trace, -⟩ := onlyHltHaltsAndOnlyPortsTrace i s t h
    rw [reframe, ← trace notPort]
  have loads : popLoads (intel s) = true := rfl
  refine ⟨fun rp => ⟨?pop, ?push⟩, fun i notStack => ?other⟩
  case pop =>
    rw [sameTrace (by simp), exec_push_source source, exec_pop, loads]
    exact loadPair_reframe s.trace .intel8085 s rp
  case push =>
    rw [sameTrace (by simp), exec_pop_source source, exec_push, loads]
    exact storePair_reframe s.trace .intel8085 s rp
  case other =>
    by_cases isPort : ∃ p, i = .inPort p ∨ i = .outPort p
    · obtain ⟨p, rfl | rfl⟩ := isPort <;> rfl
    · have notPort : ∀ p, i ≠ .inPort p ∧ i ≠ .outPort p :=
        fun p => ⟨fun e => isPort ⟨p, .inl e⟩, fun e => isPort ⟨p, .inr e⟩⟩
      rw [sameTrace notPort]
      exact exec_reframe s.trace .intel8085 i s notPort notStack

end Sys2Proof.Proofs.Unseen

/-! The register and M forms of the accumulator's operations, the comparisons, the logic operations, INR and DCR
(40_alu_accumulator.md, 41_alu_inc_rotate_pair.md section 1). -/

namespace Sys2Proof.Proofs.AluOperand

open Sys2Proof Sys2Proof.Machine Sys2Proof.Claims
open Sys2Proof.Proofs.AluAccumulator Sys2Proof.Proofs.MoveImmediate Sys2Proof.Proofs.MachineFrame

/-! ### The operand of the statements -/

theorem readOperand_of_operandIs {s : State} {o : Operand} {v : Byte} (h : OperandIs s o v) :
    readOperand s o = .ok v := by
  cases o with
  | reg r => exact congrArg Except.ok h
  | m => exact h

theorem withOperand_of_operandIs {s : State} {src : Operand} {v : Byte} (h : OperandIs s src v) (f : Byte → State) :
    withOperand s src f = .next ((f v).advance 1#16) := by
  rw [withOperand, readOperand_of_operandIs h, attempt_ok]

/-! ### Addition and subtraction (R105 to R108) -/

theorem exec_add (src : Operand) (s : State) :
    exec (.add src) s = withOperand s src fun v => setAccumulator s (addC s.a v false) := rfl

theorem exec_adc (src : Operand) (s : State) :
    exec (.adc src) s = withOperand s src fun v => setAccumulator s (addC s.a v s.flags.cy) := rfl

theorem exec_sub (src : Operand) (s : State) :
    exec (.sub src) s = withOperand s src fun v => setAccumulator s (subB s.a v false) := rfl

theorem exec_sbb (src : Operand) (s : State) :
    exec (.sbb src) s = withOperand s src fun v => setAccumulator s (subB s.a v s.flags.cy) := rfl

/-- Settles O28: the adder of R101 with carry in 0 (ADD) or CY (ADC). -/
theorem addAndAdcAddModulo256 : Obligations.AddAndAdcAddModulo256 := by
  intro s src v operand
  refine ⟨rfl, ?add, rfl, ?adc⟩
  case add => simp [exec_add, withOperand_of_operandIs operand, advance_setAccumulator_addC]
  case adc => rw [exec_adc, withOperand_of_operandIs operand, advance_setAccumulator_addC]

/-- Settles O30: the subtractor of R102 with borrow in 0 (SUB) or CY (SBB). -/
theorem subAndSbbSubtractModulo256 : Obligations.SubAndSbbSubtractModulo256 := by
  intro s src v operand
  refine ⟨rfl, ?sub, rfl, ?sbb⟩
  case sub => simp [exec_sub, withOperand_of_operandIs operand, advance_setAccumulator_subB]
  case sbb => rw [exec_sbb, withOperand_of_operandIs operand, advance_setAccumulator_subB]

/-! ### Comparisons (R112, R120) -/

theorem exec_cmp (src : Operand) (s : State) :
    exec (.cmp src) s = withOperand s src fun v => setCompareFlags s (subB s.a v false) := rfl

theorem exec_cpi (imm : Byte) (s : State) :
    exec (.cpi imm) s = .next ((setCompareFlags s (subB s.a imm false)).advance 2#16) := rfl

theorem advance_setCompareFlags_subB (s : State) (v : Byte) (len : Word) :
    (setCompareFlags s (subB s.a v false)).advance len =
      compareSet s (BitVec.ofInt 8 ((s.a.toNat : Int) - v.toNat)) (decide (s.a.toNat < v.toNat)) len := by
  simp [subB_eq, setCompareFlags, State.advance, compareSet, setSzp_setCarry_eq_flagsOf]

/-- Settles O32: the subtractor of R102 with borrow in 0, its result into the flags alone. -/
theorem cmpAndCpiSetOnlyFlags : Obligations.CmpAndCpiSetOnlyFlags := by
  refine ⟨fun s src v operand => ⟨rfl, ?cmp⟩, fun s v => ⟨rfl, ?cpi⟩⟩
  case cmp => rw [exec_cmp, withOperand_of_operandIs operand, advance_setCompareFlags_subB]
  case cpi => rw [exec_cpi, advance_setCompareFlags_subB]

/-! ### Logic (R109 to R111, R117 to R119) -/

theorem exec_ana (src : Operand) (s : State) :
    exec (.ana src) s = withOperand s src fun v => setLogic s (s.a &&& v) := rfl

theorem exec_xra (src : Operand) (s : State) :
    exec (.xra src) s = withOperand s src fun v => setLogic s (s.a ^^^ v) := rfl

theorem exec_ora (src : Operand) (s : State) :
    exec (.ora src) s = withOperand s src fun v => setLogic s (s.a ||| v) := rfl

theorem exec_ani (imm : Byte) (s : State) : exec (.ani imm) s = .next ((setLogic s (s.a &&& imm)).advance 2#16) := rfl

theorem exec_xri (imm : Byte) (s : State) : exec (.xri imm) s = .next ((setLogic s (s.a ^^^ imm)).advance 2#16) := rfl

theorem exec_ori (imm : Byte) (s : State) : exec (.ori imm) s = .next ((setLogic s (s.a ||| imm)).advance 2#16) := rfl

/-- The carry of a logic operation is what the two settings of LOGIC_CARRY make it. -/
theorem logicCarry_eq {s : State} {cy : Bool} (clear : s.cfg.logicCarry = .clear → cy = false)
    (draw : s.cfg.logicCarry = .draw → cy = Config.drawnCarry s.tick) : logicCarry s = cy := by
  unfold logicCarry
  split
  · exact (clear ‹_›).symm
  · exact (draw ‹_›).symm

theorem advance_setLogic {s : State} {cy : Bool} (carry : logicCarry s = cy) (r : Byte) (len : Word) :
    (setLogic s r).advance len = accumulatorSet s r cy len := by
  rw [setLogic, carry, advance_setAccumulator]

/-- Settles O33: both settings of LOGIC_CARRY give the one carry of the hypotheses. -/
theorem anaXraOraAreBitwise : Obligations.AnaXraOraAreBitwise := by
  intro s src v cy operand clear draw
  have carry := logicCarry_eq clear draw
  refine ⟨rfl, ?ana, rfl, ?xra, rfl, ?ora⟩
  case ana => rw [exec_ana, withOperand_of_operandIs operand, advance_setLogic carry]
  case xra => rw [exec_xra, withOperand_of_operandIs operand, advance_setLogic carry]
  case ora => rw [exec_ora, withOperand_of_operandIs operand, advance_setLogic carry]

/-- Settles O34: as O33, the operand in the instruction. -/
theorem aniXriOriAreBitwise : Obligations.AniXriOriAreBitwise := by
  intro s v cy clear draw
  have carry := logicCarry_eq clear draw
  refine ⟨rfl, ?ani, rfl, ?xri, rfl, ?ori⟩
  case ani => rw [exec_ani, advance_setLogic carry]
  case xri => rw [exec_xri, advance_setLogic carry]
  case ori => rw [exec_ori, advance_setLogic carry]

/-! ### INR and DCR (R140, R141) -/

theorem exec_inr (dst : Operand) (s : State) : exec (.inr dst) s = changeOperand s dst fun v => v + 0x01#8 := rfl

theorem exec_dcr (dst : Operand) (s : State) : exec (.dcr dst) s = changeOperand s dst fun v => v - 0x01#8 := rfl

theorem add_one_eq_ofNat {n : Nat} (x : BitVec n) : x + 1#n = BitVec.ofNat n (x.toNat + 1) := by
  apply BitVec.eq_of_toNat_eq
  simp [BitVec.toNat_add]

theorem sub_one_eq_ofInt {n : Nat} (x : BitVec n) : x - 1#n = BitVec.ofInt n ((x.toNat : Int) - 1) := by
  have one : 1#n = BitVec.ofInt n 1 := (BitVec.ofInt_natCast n 1).symm
  rw [BitVec.sub_eq_iff_eq_add, one, ← BitVec.ofInt_add, Int.sub_add_cancel, BitVec.ofInt_natCast, BitVec.ofNat_toNat,
    BitVec.setWidth_eq]

theorem setSzp_eq_flagsOf (f : Flags) (r : Byte) : f.setSzp r = flagsOf r f.cy :=
  setSzp_setCarry_eq_flagsOf f r f.cy

/-- A register changed in place: that register, S, Z, P and pc, nothing else. -/
theorem changeOperand_reg (s : State) (r : Reg) (f : Byte → Byte) :
    ∃ t, changeOperand s (.reg r) f = .next t ∧ OnlyRegister s t r (f (s.reg r)) ∧
      t.flags = flagsOf (f (s.reg r)) s.flags.cy ∧ t.sp = s.sp ∧ t.pc = s.pc + 1#16 ∧ OutsideRegistersSame s t := by
  refine ⟨_, rfl, fun q => ?regs, ?flags, by simp, by simp, by simp [OutsideRegistersSame]⟩
  case regs => rw [State.reg_advance, ← State.reg_setReg]; cases q <;> rfl
  case flags => rw [State.advance_flags, ← setSzp_eq_flagsOf, State.setReg_flags]

/-- The byte at H ++ L changed in place: that byte, S, Z, P and pc, nothing else. -/
theorem changeOperand_m {s : State} {v : Byte} (f : Byte → Byte) (read : memRead s (s.h ++ s.l) = .ok v)
    (ram : s.cellKind (s.h ++ s.l) = .ram) :
    ∃ t, changeOperand s .m f = .next t ∧ StoresByte s t (s.h ++ s.l) (f v) ∧
      t = { s with mem := t.mem, flags := flagsOf (f v) s.flags.cy, pc := s.pc + 1#16 } := by
  have read' : readOperand s .m = .ok v := read
  have write : writeOperand s .m (f v) = .ok { s with mem := Memory.insert s.mem (s.h ++ s.l : Word).toNat (f v) } :=
    memWrite_ram (f v) ram
  rw [changeOperand, read', attempt_ok, write, attempt_ok]
  refine ⟨_, rfl, storesByte_insert ram rfl rfl, ?_⟩
  rw [State.advance, setSzp_eq_flagsOf]

/-- Settles O35: an operand changed in place, by one more. -/
theorem inrAddsOneAndKeepsCarry : Obligations.InrAddsOneAndKeepsCarry := by
  intro s dst v operand
  refine ⟨rfl, fun r isReg => ?reg, fun isM ram => ?m⟩
  case reg =>
    subst isReg
    rw [exec_inr, ← add_one_eq_ofNat, ← show s.reg r = v from operand]
    exact changeOperand_reg s r _
  case m =>
    subst isM
    rw [exec_inr, ← add_one_eq_ofNat]
    exact changeOperand_m (fun v => v + 0x01#8) operand ram

/-- Settles O36: an operand changed in place, by one less. -/
theorem dcrSubtractsOneAndKeepsCarry : Obligations.DcrSubtractsOneAndKeepsCarry := by
  intro s dst v operand
  refine ⟨rfl, fun r isReg => ?reg, fun isM ram => ?m⟩
  case reg =>
    subst isReg
    rw [exec_dcr, ← sub_one_eq_ofInt, ← show s.reg r = v from operand]
    exact changeOperand_reg s r _
  case m =>
    subst isM
    rw [exec_dcr, ← sub_one_eq_ofInt]
    exact changeOperand_m (fun v => v - 0x01#8) operand ram

end Sys2Proof.Proofs.AluOperand

/-! The rotates (41_alu_inc_rotate_pair.md R142 to R145): each in integers, and each run as often as it has bits to move. -/

namespace Sys2Proof.Proofs.Rotates

open Sys2Proof Sys2Proof.Machine Sys2Proof.Claims

/-! ### A rotate as a function of A and CY -/

/-- A and CY after RLC (R142). -/
def rlcOf (p : Byte × Bool) : Byte × Bool := (p.1.extractLsb' 0 7 ++ p.1.extractLsb' 7 1, p.1.getLsbD 7)

/-- A and CY after RRC (R143). -/
def rrcOf (p : Byte × Bool) : Byte × Bool := (p.1.extractLsb' 0 1 ++ p.1.extractLsb' 1 7, p.1.getLsbD 0)

/-- A and CY after RAL (R144). -/
def ralOf (p : Byte × Bool) : Byte × Bool := (p.1.extractLsb' 0 7 ++ BitVec.ofBool p.2, p.1.getLsbD 7)

/-- A and CY after RAR (R145). -/
def rarOf (p : Byte × Bool) : Byte × Bool := (BitVec.ofBool p.2 ++ p.1.extractLsb' 1 7, p.1.getLsbD 0)

/-- `s` with A and CY replaced and pc moved on. -/
def rotated (s : State) (p : Byte × Bool) (len : Word) : State :=
  { s with a := p.1, flags := { s.flags with cy := p.2 }, pc := s.pc + len }

theorem exec_rlc (s : State) : exec .rlc s = .next (rotated s (rlcOf (s.a, s.flags.cy)) 1#16) := rfl

theorem exec_rrc (s : State) : exec .rrc s = .next (rotated s (rrcOf (s.a, s.flags.cy)) 1#16) := rfl

theorem exec_ral (s : State) : exec .ral s = .next (rotated s (ralOf (s.a, s.flags.cy)) 1#16) := rfl

theorem exec_rar (s : State) : exec .rar s = .next (rotated s (rarOf (s.a, s.flags.cy)) 1#16) := rfl

/-! ### In integers -/

theorem toNat_append_eq {m n : Nat} (x : BitVec m) (y : BitVec n) : (x ++ y).toNat = x.toNat * 2 ^ n + y.toNat := by
  rw [BitVec.toNat_append, Nat.shiftLeft_eq, Nat.mul_comm, Nat.two_pow_add_eq_or_of_lt y.isLt]

theorem getLsbD_zero_eq (v : Byte) : v.getLsbD 0 = decide (v.toNat % 2 = 1) := by
  rw [BitVec.getLsbD, Nat.testBit_zero]

theorem getLsbD_seven_eq (v : Byte) : v.getLsbD 7 = decide (128 ≤ v.toNat) := BitVec.msb_eq_decide v

theorem rlcOf_eq (a : Byte) (cy : Bool) :
    rlcOf (a, cy) = (BitVec.ofNat 8 (2 * a.toNat + a.toNat / 128), decide (128 ≤ a.toNat)) := by
  refine Prod.ext (BitVec.eq_of_toNat_eq ?_) (getLsbD_seven_eq a)
  have top : a.toNat / 128 = 0 ∨ a.toNat / 128 = 1 := by omega
  simp only [rlcOf, toNat_append_eq, BitVec.extractLsb'_toNat, Nat.shiftRight_eq_div_pow, BitVec.toNat_ofNat,
    Nat.reducePow, Nat.div_one]
  omega

theorem rrcOf_eq (a : Byte) (cy : Bool) :
    rrcOf (a, cy) = (BitVec.ofNat 8 (a.toNat / 2 + 128 * (a.toNat % 2)), decide (a.toNat % 2 = 1)) := by
  refine Prod.ext (BitVec.eq_of_toNat_eq ?_) (getLsbD_zero_eq a)
  have bottom : a.toNat % 2 = 0 ∨ a.toNat % 2 = 1 := by omega
  simp only [rrcOf, toNat_append_eq, BitVec.extractLsb'_toNat, Nat.shiftRight_eq_div_pow, BitVec.toNat_ofNat,
    Nat.reducePow, Nat.div_one]
  omega

theorem ralOf_eq (a : Byte) (cy : Bool) :
    ralOf (a, cy) = (BitVec.ofNat 8 (2 * a.toNat + cy.toNat), decide (128 ≤ a.toNat)) := by
  refine Prod.ext (BitVec.eq_of_toNat_eq ?_) (getLsbD_seven_eq a)
  have hcy := cy.toNat_le
  simp only [ralOf, toNat_append_eq, BitVec.extractLsb'_toNat, Nat.shiftRight_eq_div_pow, BitVec.toNat_ofNat,
    BitVec.toNat_ofBool, Nat.reducePow, Nat.div_one]
  omega

theorem rarOf_eq (a : Byte) (cy : Bool) :
    rarOf (a, cy) = (BitVec.ofNat 8 (a.toNat / 2 + 128 * cy.toNat), decide (a.toNat % 2 = 1)) := by
  refine Prod.ext (BitVec.eq_of_toNat_eq ?_) (getLsbD_zero_eq a)
  have ha := a.isLt
  have hcy := cy.toNat_le
  simp only [rarOf, toNat_append_eq, BitVec.extractLsb'_toNat, Nat.shiftRight_eq_div_pow, BitVec.toNat_ofNat,
    BitVec.toNat_ofBool, Nat.reducePow]
  omega

/-- Settles O37: the eight-bit rotates in integers. -/
theorem rlcAndRrcRotateEightBits : Obligations.RlcAndRrcRotateEightBits := by
  intro s
  refine ⟨rfl, ?rlc, rfl, ?rrc⟩
  case rlc => rw [exec_rlc, rlcOf_eq, rotated]
  case rrc => rw [exec_rrc, rrcOf_eq, rotated]

/-- Settles O38: the nine-bit rotates in integers. -/
theorem ralAndRarRotateNineBits : Obligations.RalAndRarRotateNineBits := by
  intro s
  refine ⟨rfl, ?ral, rfl, ?rar⟩
  case ral => rw [exec_ral, ralOf_eq, rotated]
  case rar => rw [exec_rar, rarOf_eq, rotated]

/-! ### A rotate repeated -/

/-- An instruction that only changes A and CY by `f`, run `n` times, changes them by `f` iterated. -/
theorem execTimes_of_rotates {i : Instr} {f : Byte × Bool → Byte × Bool}
    (one : ∀ s, exec i s = .next (rotated s (f (s.a, s.flags.cy)) 1#16)) (n : Nat) (s : State) :
    execTimes n i s = .next (rotated s (f^[n] (s.a, s.flags.cy)) (BitVec.ofNat 16 n)) := by
  induction n generalizing s with
  | zero => simp [execTimes, rotated]
  | succ n ih =>
    have pc : s.pc + 1#16 + BitVec.ofNat 16 n = s.pc + BitVec.ofNat 16 (n + 1) := by
      rw [BitVec.add_assoc, ← BitVec.ofNat_add, Nat.add_comm]
    rw [execTimes, one]
    simp only [ih, rotated, pc, Function.iterate_succ_apply]

/-- A word rotated left by one place. -/
def rotl {w : Nat} (x : BitVec w) : BitVec w := x.rotateLeft 1

/-- A word rotated right by one place. -/
def rotr {w : Nat} (x : BitVec w) : BitVec w := x.rotateRight 1

theorem getLsbD_rotl {w i : Nat} (x : BitVec w) (hw : 1 < w) (hi : i < w) :
    (rotl x).getLsbD i = if i = 0 then x.getLsbD (w - 1) else x.getLsbD (i - 1) := by
  rw [rotl, BitVec.getLsbD_rotateLeft_of_le hw]
  cases i <;> simp [hi]

/-- After `n` places bit `i` is the one that stood `n` places below it, round the end. -/
theorem getLsbD_iterate_rotl {w n i : Nat} (x : BitVec w) (hw : 1 < w) (hn : n ≤ w) (hi : i < w) :
    (rotl^[n] x).getLsbD i = if i < n then x.getLsbD (i + w - n) else x.getLsbD (i - n) := by
  induction n generalizing i with
  | zero => simp
  | succ n ih =>
    rw [Function.iterate_succ_apply', getLsbD_rotl _ hw hi]
    cases i with
    | zero =>
      rw [if_pos rfl, ih (by omega) (by omega), if_neg (by omega), if_pos (by omega)]
      congr 1; omega
    | succ i =>
      rw [if_neg (by omega), ih (by omega) (by omega)]
      simp only [Nat.add_sub_cancel, Nat.add_lt_add_iff_right, Nat.add_sub_add_right]
      congr 2; omega

/-- As many places as there are bits bring a word round. -/
theorem iterate_rotl_width {w : Nat} (x : BitVec w) (hw : 1 < w) : rotl^[w] x = x := by
  apply BitVec.eq_of_getLsbD_eq
  intro i hi
  rw [getLsbD_iterate_rotl x hw (Nat.le_refl w) hi, if_pos hi, Nat.add_sub_cancel]

theorem getLsbD_rotr {w i : Nat} (x : BitVec w) (hw : 1 < w) (hi : i < w) :
    (rotr x).getLsbD i = if i + 1 = w then x.getLsbD 0 else x.getLsbD (i + 1) := by
  rw [rotr, BitVec.getLsbD_rotateRight_of_lt hw]
  by_cases top : i + 1 = w
  · subst top
    simp
  · have below : i < w - 1 := by omega
    simp [top, below, Nat.add_comm]

theorem rotr_rotl {w : Nat} (x : BitVec w) (hw : 1 < w) : rotr (rotl x) = x := by
  apply BitVec.eq_of_getLsbD_eq
  intro i hi
  rw [getLsbD_rotr _ hw hi]
  split
  · subst w
    rw [getLsbD_rotl x hw (by omega), if_pos rfl, Nat.add_sub_cancel]
  · rw [getLsbD_rotl x hw (by omega), if_neg (by omega), Nat.add_sub_cancel]

theorem iterate_rotr_width {w : Nat} (x : BitVec w) (hw : 1 < w) : rotr^[w] x = x := by
  have back : Function.LeftInverse (rotr (w := w)) rotl := fun y => rotr_rotl y hw
  have undone := back.iterate w x
  rwa [iterate_rotl_width x hw] at undone

/-! ### The eight bits of A and the nine bits CY ++ A come round (D10) -/

/-- The nine bits that RAL and RAR rotate. -/
def nineBits (p : Byte × Bool) : BitVec 9 := BitVec.ofBool p.2 ++ p.1

theorem nineBits_injective {p q : Byte × Bool} (h : nineBits p = nineBits q) : p = q := by
  obtain ⟨a, cy⟩ := p
  obtain ⟨b, cz⟩ := q
  have low : (nineBits (a, cy)).extractLsb' 0 8 = (nineBits (b, cz)).extractLsb' 0 8 := by rw [h]
  have high : (nineBits (a, cy)).extractLsb' 8 1 = (nineBits (b, cz)).extractLsb' 8 1 := by rw [h]
  simp only [nineBits] at low high
  rw [BitVec.extractLsb'_append_eq_right, BitVec.extractLsb'_append_eq_right] at low
  rw [BitVec.extractLsb'_append_eq_left, BitVec.extractLsb'_append_eq_left] at high
  exact Prod.ext low (BitVec.ofBool_eq_iff_eq.mp high)

theorem nineBits_ralOf (p : Byte × Bool) : nineBits (ralOf p) = rotl (nineBits p) := by
  apply BitVec.eq_of_getLsbD_eq
  intro i hi
  rw [getLsbD_rotl _ (by omega) hi]
  simp only [nineBits, ralOf, BitVec.getLsbD_append, BitVec.getLsbD_extractLsb', BitVec.getLsbD_ofBool]
  interval_cases i <;> simp

theorem nineBits_rarOf (p : Byte × Bool) : nineBits (rarOf p) = rotr (nineBits p) := by
  apply BitVec.eq_of_getLsbD_eq
  intro i hi
  rw [getLsbD_rotr _ (by omega) hi]
  simp only [nineBits, rarOf, BitVec.getLsbD_append, BitVec.getLsbD_extractLsb', BitVec.getLsbD_ofBool]
  interval_cases i <;> simp

theorem rlcOf_eq_rotl (p : Byte × Bool) : rlcOf p = (rotl p.1, (rotl p.1).getLsbD 0) := by
  refine Prod.ext (BitVec.eq_of_getLsbD_eq fun i hi => ?_) ?_
  · rw [getLsbD_rotl _ (by omega) hi]
    simp only [rlcOf, BitVec.getLsbD_append, BitVec.getLsbD_extractLsb']
    interval_cases i <;> simp
  · rw [getLsbD_rotl _ (by omega) (by omega)]
    rfl

theorem rrcOf_eq_rotr (p : Byte × Bool) : rrcOf p = (rotr p.1, (rotr p.1).getLsbD 7) := by
  refine Prod.ext (BitVec.eq_of_getLsbD_eq fun i hi => ?_) ?_
  · rw [getLsbD_rotr _ (by omega) hi]
    simp only [rrcOf, BitVec.getLsbD_append, BitVec.getLsbD_extractLsb']
    interval_cases i <;> simp
  · rw [getLsbD_rotr _ (by omega) (by omega)]
    rfl

theorem iterate_ralOf (p : Byte × Bool) : ralOf^[9] p = p := by
  have conj : Function.Semiconj nineBits ralOf rotl := nineBits_ralOf
  apply nineBits_injective
  rw [conj.iterate_right 9 p, iterate_rotl_width _ (by omega)]

theorem iterate_rarOf (p : Byte × Bool) : rarOf^[9] p = p := by
  have conj : Function.Semiconj nineBits rarOf rotr := nineBits_rarOf
  apply nineBits_injective
  rw [conj.iterate_right 9 p, iterate_rotr_width _ (by omega)]

/-- Where the carry is a bit of the new byte, so it is after any number of turns. -/
theorem iterate_of_carry_copies {f : Byte × Bool → Byte × Bool} {turn : Byte → Byte} {bit : Byte → Bool}
    (one : ∀ p, f p = (turn p.1, bit (turn p.1))) (n : Nat) (p : Byte × Bool) :
    f^[n + 1] p = (turn^[n + 1] p.1, bit (turn^[n + 1] p.1)) := by
  induction n with
  | zero => exact one p
  | succ n ih => rw [Function.iterate_succ_apply', ih, one, ← Function.iterate_succ_apply' turn]

theorem iterate_rlcOf (a : Byte) (cy : Bool) : rlcOf^[8] (a, cy) = (a, decide (a.toNat % 2 = 1)) := by
  rw [iterate_of_carry_copies (turn := rotl) (bit := fun x => x.getLsbD 0) rlcOf_eq_rotl,
    iterate_rotl_width _ (by omega), getLsbD_zero_eq]

theorem iterate_rrcOf (a : Byte) (cy : Bool) : rrcOf^[8] (a, cy) = (a, decide (128 ≤ a.toNat)) := by
  rw [iterate_of_carry_copies (turn := rotr) (bit := fun x => x.getLsbD 7) rrcOf_eq_rotr,
    iterate_rotr_width _ (by omega), getLsbD_seven_eq]

/-- Settles O39: RAL and RAR turn nine bits, RLC and RRC eight, each once round. -/
theorem rotatesComeRound : Obligations.RotatesComeRound := by
  intro s
  refine ⟨?ral, ?rar, ?rlc, ?rrc⟩
  case ral => rw [execTimes_of_rotates exec_ral, iterate_ralOf]; rfl
  case rar => rw [execTimes_of_rotates exec_rar, iterate_rarOf]; rfl
  case rlc => rw [execTimes_of_rotates exec_rlc, iterate_rlcOf]; rfl
  case rrc => rw [execTimes_of_rotates exec_rrc, iterate_rrcOf]; rfl

end Sys2Proof.Proofs.Rotates

/-! Pairs, moves, jumps, ports, and the memory after reset: each instruction's next state as its statement writes it. -/

namespace Sys2Proof.Proofs.PairsMovesJumps

open Sys2Proof Sys2Proof.Machine Sys2Proof.Claims
open Sys2Proof.Proofs.Encoding Sys2Proof.Proofs.InstructionAnswers Sys2Proof.Proofs.MachineFrame
open Sys2Proof.Proofs.MoveImmediate Sys2Proof.Proofs.AluOperand

/-! ### DAD (41_alu_inc_rotate_pair.md R149) -/

/-- Seventeen bits hold the sum of two words: the adder itself never wraps. -/
theorem toNat_seventeenBitSum (x y : Word) : (x.zeroExtend 17 + y.zeroExtend 17).toNat = x.toNat + y.toNat := by
  have hx := x.isLt
  have hy := y.isLt
  simp only [BitVec.toNat_add, BitVec.truncate_eq_setWidth, BitVec.toNat_setWidth]
  omega

theorem addPair_eq (x y : Word) :
    addPair x y = (BitVec.ofNat 16 (x.toNat + y.toNat), decide (2 ^ 16 ≤ x.toNat + y.toNat)) := by
  refine Prod.ext (BitVec.eq_of_toNat_eq ?_) ?_
  · simp only [addPair, BitVec.extractLsb'_toNat, toNat_seventeenBitSum, BitVec.toNat_ofNat, Nat.shiftRight_zero]
  · rw [← toNat_seventeenBitSum]
    exact BitVec.msb_eq_decide (x.zeroExtend 17 + y.zeroExtend 17)

theorem pair_eq_pairIs (s : State) (rp : Pair) : s.pair rp = pairIs s rp := by
  cases rp <;> rfl

theorem exec_dad (rp : Pair) (s : State) : exec (.dad rp) s =
    .next ({ s.setPair .hl (addPair s.hl (s.pair rp)).1 with
      flags := s.flags.setCarry (addPair s.hl (s.pair rp)).2 }.advance 1#16) := rfl

/-- Settles O41: the seventeen-bit sum, its low half into HL and its top bit into CY. -/
theorem dadAddsToHl : Obligations.DadAddsToHl := by
  intro s rp
  have hl : s.hl = s.h ++ s.l := rfl
  refine ⟨rfl, _, exec_dad rp s, ?sum, ?frame⟩
  case sum =>
    rw [addPair_eq, pair_eq_pairIs, hl]
    exact hi8_append_lo8 _
  case frame =>
    rw [addPair_eq, pair_eq_pairIs, hl]
    rfl

/-! ### INX, DCX and LXI (R150, R151, 43_memory_register.md R196) -/

theorem pairIs_setPair_same (s : State) (rp : Pair) (w : Word) : pairIs (s.setPair rp w) rp = w := by
  cases rp with
  | sp => rfl
  | bc | de | hl => exact hi8_append_lo8 w

theorem pairIs_setPair_ne (s : State) {rp q : Pair} (w : Word) (hq : q ≠ rp) :
    pairIs (s.setPair rp w) q = pairIs s q := by
  cases rp with
  | bc => cases q with
    | bc => exact absurd rfl hq
    | de | hl | sp => rfl
  | de => cases q with
    | de => exact absurd rfl hq
    | bc | hl | sp => rfl
  | hl => cases q with
    | hl => exact absurd rfl hq
    | bc | de | sp => rfl
  | sp => cases q with
    | sp => exact absurd rfl hq
    | bc | de | hl => rfl

/-- A pair written and pc moved on: the other pairs, A, the flags and all else are kept. -/
theorem pair_written (s : State) (rp : Pair) (w len : Word) :
    pairIs ((s.setPair rp w).advance len) rp = w ∧
      (∀ q, q ≠ rp → pairIs ((s.setPair rp w).advance len) q = pairIs s q) ∧
      ((s.setPair rp w).advance len).a = s.a ∧ ((s.setPair rp w).advance len).flags = s.flags ∧
      ((s.setPair rp w).advance len).pc = s.pc + len ∧ OutsideRegistersSame s ((s.setPair rp w).advance len) := by
  have advanced (q : Pair) : pairIs ((s.setPair rp w).advance len) q = pairIs (s.setPair rp w) q := by
    cases q <;> rfl
  refine ⟨?same, fun q hq => ?other, by simp, by simp, by simp, by simp [OutsideRegistersSame]⟩
  case same => rw [advanced, pairIs_setPair_same]
  case other => rw [advanced, pairIs_setPair_ne s w hq]

theorem exec_inx (rp : Pair) (s : State) :
    exec (.inx rp) s = .next ((s.setPair rp (s.pair rp + 1#16)).advance 1#16) := rfl

theorem exec_dcx (rp : Pair) (s : State) :
    exec (.dcx rp) s = .next ((s.setPair rp (s.pair rp - 1#16)).advance 1#16) := rfl

theorem exec_lxi (rp : Pair) (w : Word) (s : State) :
    exec (.lxi rp w) s = .next ((s.setPair rp w).advance 3#16) := rfl

/-- Settles O42: the pair written with its neighbour. -/
theorem inxAndDcxStepThePair : Obligations.InxAndDcxStepThePair := by
  intro s rp
  refine ⟨rfl, ⟨_, exec_inx rp s, ?inx⟩, rfl, ⟨_, exec_dcx rp s, ?dcx⟩⟩
  case inx =>
    rw [pair_eq_pairIs, add_one_eq_ofNat]
    exact pair_written s rp _ 1#16
  case dcx =>
    rw [pair_eq_pairIs, sub_one_eq_ofInt]
    exact pair_written s rp _ 1#16

/-- Settles O46: the pair written with the operand, whose bytes are those of the encoding. -/
theorem lxiLoadsThePair : Obligations.LxiLoadsThePair := by
  intro s rp lo hi
  exact ⟨threeBytes_imm16 _ lo hi, _, exec_lxi rp (hi ++ lo) s, pair_written s rp (hi ++ lo) 3#16⟩

/-! ### Moves, loads and stores (R191 to R198) -/

theorem exec_mov_reg (r : Reg) (src : Operand) (s : State) : exec (.mov (.reg r) src) s =
    attempt (readOperand s src) fun v => .next ((s.setReg r v).advance 1#16) := rfl

/-- Settles O43: one write of the register, after the source is read. -/
theorem movToRegisterCopiesTheSource : Obligations.MovToRegisterCopiesTheSource := by
  intro s r src v operand
  have moved : exec (.mov (.reg r) src) s = .next ((s.setReg r v).advance 1#16) := by
    rw [exec_mov_reg, readOperand_of_operandIs operand, attempt_ok]
  exact ⟨rfl, _, moved, onlyRegister_advance_setReg s r v 1#16, by simp, by simp, by simp,
    outsideRegistersSame_advance_setReg s r v 1#16⟩

/-- A store to RAM and pc moved on: the byte, and nothing else. -/
theorem store_done {s : State} {a : Word} (v : Byte) (len : Word) (ram : s.cellKind a = .ram) :
    ∃ t, attempt (memWrite s a v) (fun t => .next (t.advance len)) = .next t ∧ StoresByte s t a v ∧
      t = { s with mem := t.mem, pc := s.pc + len } := by
  rw [memWrite_ram v ram, attempt_ok]
  exact ⟨_, rfl, storesByte_insert ram rfl rfl, rfl⟩

/-- Settles O44: both are one store at H ++ L. -/
theorem movAndMviStoreAtHl : Obligations.MovAndMviStoreAtHl := by
  intro s ram
  refine ⟨fun r => ⟨rfl, ?mov⟩, fun v => ⟨rfl, ?mvi⟩⟩
  case mov =>
    rw [exec_mov_m_reg]
    exact store_done (s.reg r) 1#16 ram
  case mvi =>
    rw [exec_mvi_m]
    exact store_done v 2#16 ram

/-- Settles O47: one read or one store at the operand address. -/
theorem ldaAndStaUseTheAddress : Obligations.LdaAndStaUseTheAddress := by
  intro s addr
  refine ⟨rfl, fun v read => ?lda, rfl, fun ram => ?sta⟩
  case lda => rw [exec_lda, read, attempt_ok, State.advance]
  case sta =>
    rw [exec_sta]
    exact store_done s.a 3#16 ram

/-! ### Jumps (42_jump.md R170 to R179) -/

theorem jumpsWhen_of_jumpIf {s : State} {cond : Cond} {i : Instr} {op : Byte} {target : Word}
    (bytes : encode i = threeBytes op target) (answer : exec i s = jumpIf s cond target) :
    JumpsWhen s i op (condHolds s.flags cond) target := by
  refine ⟨bytes, ?_⟩
  rw [answer, jumpIf]
  cases condHolds s.flags cond <;> rfl

/-- Settles O48: JMP always goes, the other eight are `jumpIf` of their condition. -/
theorem jumpsGoWhereTheFlagSays : Obligations.JumpsGoWhereTheFlagSays := by
  intro s w
  exact ⟨⟨rfl, rfl⟩, jumpsWhen_of_jumpIf (cond := .nz) rfl rfl, jumpsWhen_of_jumpIf (cond := .z) rfl rfl,
    jumpsWhen_of_jumpIf (cond := .nc) rfl rfl, jumpsWhen_of_jumpIf (cond := .c) rfl rfl,
    jumpsWhen_of_jumpIf (cond := .po) rfl rfl, jumpsWhen_of_jumpIf (cond := .pe) rfl rfl,
    jumpsWhen_of_jumpIf (cond := .p) rfl rfl, jumpsWhen_of_jumpIf (cond := .m) rfl rfl⟩

/-! ### Ports, NOP and reset (45_other.md, 10_state.md section 7) -/

theorem exec_inPort (p : Byte) (s : State) : exec (.inPort p) s =
    .next (({ s with a := portIn s p }.record (.input p (portIn s p))).advance 2#16) := rfl

theorem exec_outPort (p : Byte) (s : State) :
    exec (.outPort p) s = .next ((s.record (.output p s.a)).advance 2#16) := rfl

theorem exec_nop (s : State) : exec .nop s = .next (s.advance 1#16) := rfl

/-- Settles O59: the port event joins the trace; the byte of IN is left as the free value it is. -/
theorem inOutNopResults : Obligations.InOutNopResults := by
  intro s p
  refine ⟨rfl, ⟨portIn s p, rfl, ?inPort⟩, rfl, ?outPort, rfl, ?nop⟩
  case inPort => rw [exec_inPort, State.record, State.advance]
  case outPort => rw [exec_outPort, State.record, State.advance]
  case nop => rw [exec_nop, State.advance]

/-- Settles O11: after reset memory lists no cell. -/
theorem resetMemoryIsCanonical : Obligations.ResetMemoryIsCanonical := State.reset_mem_wf

end Sys2Proof.Proofs.PairsMovesJumps
